-- ==== Sys2Proof/Word.lean ====
section
/-! DEFINITION. The value types of the framer's spec (00_scope.md R14 to R16): bytes, length words, codewords,
bit sequences in wire order, soft decisions. -/

namespace Sys2Proof

/-- A byte is a bit vector of width 8 (R15). -/
abbrev Byte := BitVec 8

/-- A length word is a bit vector of width 12 (R15). -/
abbrev LengthWord := BitVec 12

/-- A codeword is a bit vector of width 23 (R15). -/
abbrev Codeword := BitVec 23

/-- A sequence of bits in wire order: index 0 is transmitted first and is the oldest (R16). -/
abbrev Bits := List Bool

/-- A soft decision is a signed integer (R14, R43); its width `SD_W` is a parameter of the configuration. -/
abbrev Soft := Int

/-- A packet is a byte sequence, byte 0 first (R21, R75). -/
abbrev Packet := List Byte

end Sys2Proof
end

