-- ==== Sys2Proof/Config.lean ====
section
/-! DEFINITION. What an implementation fixes: the constants of 00_scope.md R11, the parameter record `Cfg` of R12 with
its validity test (70_reset_and_hazards.md R283), and the one free value of the model. -/

namespace Sys2Proof

/-- Largest packet length in bytes (R11). -/
abbrev mtu : Nat := 1600

/-- Unique-word length in bits (R11). -/
abbrev uwLen : Nat := 48

/-- Footer length in bits, two codewords of 23 (R11). -/
abbrev footerBits : Nat := 46

/-- Longest frame, `48 + 0 + 8*1600 + 46 + 48` bits (R11). -/
abbrev frameMaxBits : Nat := 12942

/-- History a receive window keeps, `BASE = FRAME_MAX_BITS` (R12). -/
abbrev base : Nat := frameMaxBits

/-- Payload scrambling mask `SCR_MASK` (R11). -/
abbrev scrMask : Byte := 0x55

/-- Mask of the second length codeword `LEN_MASK` (R12). -/
abbrev lenMask : LengthWord := 0xFFF

/-- The parameter record of R12: its open fields. `NRX` and `NTX` are the lengths of the two size lists.
`uw` holds the unique word with `UW[i]` at bit `i` (R77). `golay` holds `GolayEnc` by the codewords of the twelve one-bit
values, which determine it because it is linear (R140 G1; entry 2). -/
structure Cfg where
  uw     : BitVec 48
  golay  : Vector Codeword 12
  maxCh  : Nat
  nbRx   : List Nat
  nbTx   : List Nat
  sdW    : Nat
  deriving DecidableEq, Repr

/-- Number of receive channels (R12). -/
def Cfg.nrx (g : Cfg) : Nat := g.nbRx.length

/-- Number of transmit channels (R12). -/
def Cfg.ntx (g : Cfg) : Nat := g.nbTx.length

/-- Largest chunk of receive channel `k` (R12); a channel that does not exist has size 0. -/
def Cfg.chunkMax (g : Cfg) (k : Nat) : Nat := g.nbRx.getD k 0

/-- Quantum of transmit channel `c` (R12); a channel that does not exist has size 0. -/
def Cfg.quantum (g : Cfg) (c : Nat) : Nat := g.nbTx.getD c 0

/-- Receive window length `W_RX[k]` (R12). -/
def Cfg.wRx (g : Cfg) (k : Nat) : Nat := base + g.chunkMax k

/-- Transmit queue length `W_TX[c]` (R12). -/
def Cfg.wTx (g : Cfg) (c : Nat) : Nat := frameMaxBits + g.quantum c

/-- The unique word as the sequence `UW[0..48)`, `UW[0]` first (R102). -/
def Cfg.uwBits (g : Cfg) : Bits := (List.range uwLen).map fun i => g.uw.getLsbD i

/-- The test `CfgValid` of R283. -/
def Cfg.valid (g : Cfg) : Bool :=
  decide (g.nrx ≤ g.maxCh) && decide (g.ntx ≤ g.maxCh) && g.nbRx.all (fun n => decide (1 ≤ n)) &&
    g.nbTx.all (fun n => decide (1 ≤ n)) && decide (2 ≤ g.sdW)

/-- The values a soft decision of `SD_W` bits can take (R43). -/
def Cfg.softOk (g : Cfg) (s : Soft) : Bool :=
  decide (-(2 : Int) ^ (g.sdW - 1) ≤ s) && decide (s < (2 : Int) ^ (g.sdW - 1))

/-- FREE VALUE: the bytes of `sch.pend_data` that SYS.RESET leaves, which the spec leaves unspecified (R61, R280, U3;
entry 13). No body, so nothing can be proved of a particular byte. -/
opaque Config.freeByte : Nat → Byte

end Sys2Proof
end

