-- ==== Sys2Proof/Syntax.lean ====
section
/-! DEFINITION. The operations of 30_encoding.md R120, the two reserved operations of R124, and the wire and word
patterns of the opcode table: one constructor per row of spec/opcode_table.json. -/

namespace Sys2Proof

/-- One constructor per row of the opcode table. A pure function carries its arguments (R122); a worker's operation
carries its channel index `k`; the scheduler's operations take theirs from `sch.ci`. -/
inductive Instr where
  /-- `GOLAY.ENC`, R140. -/
  | golayEnc (v : LengthWord)
  /-- `LEN.ENC`, R141. -/
  | lenEnc (len : Nat)
  /-- `LEN.ILV`, R142. -/
  | lenIlv (a b : Codeword)
  /-- `LEN.DEC`, R143. -/
  | lenDec (s : List Soft) (par : Bool)
  /-- `UW.CORR`, R160. -/
  | uwCorr (sd : List Soft) (o : Nat)
  /-- `UW.SEARCH`, R161. -/
  | uwSearch (sd : List Soft) (lo hi : Nat)
  /-- `SCR`, R170. -/
  | scr (b : Byte)
  /-- `SER`, R171. -/
  | ser (p : Packet)
  /-- `DESER`, R172. -/
  | deser (bits : Bits)
  /-- `FRM.ENC`, R177. -/
  | frmEnc (p : Packet) (lead : Bool)
  /-- `FRM.DEC`, R179. -/
  | frmDec (bits : Bits) (sd : List Soft) (o : Nat)
  /-- `FILLER`, R174. -/
  | filler (m : Nat)
  /-- `RX.FILL`, R191. -/
  | rxFill (k : Nat)
  /-- `RX.SEARCH`, R192. -/
  | rxSearch (k : Nat)
  /-- `RX.VALIDATE`, R194. -/
  | rxValidate (k : Nat)
  /-- `RX.EXTRACT`, R195. -/
  | rxExtract (k : Nat)
  /-- `RX.SHIFT`, R196. -/
  | rxShift (k : Nat)
  /-- `RX.HALT`, R197. -/
  | rxHalt (k : Nat)
  /-- `TX.WAIT`, R214. -/
  | txWait
  /-- `TX.DEVRD`, R215. -/
  | txDevrd
  /-- `TX.ASSIGN`, R216. -/
  | txAssign
  /-- `TX.DRAIN`, R218. -/
  | txDrain
  /-- `TX.FAIL`, R222. -/
  | txFail
  /-- `TX.ABORT`, R223. -/
  | txAbort
  /-- `SYS.RESET`, R280. -/
  | sysReset
  /-- `SYS.CFGCHK`, R283. -/
  | sysCfgchk
  /-- `LEN.VOTE`, reserved, R124. -/
  | lenVote
  /-- `UW.HARD`, reserved, R124. -/
  | uwHard
  /-- `WIRE.UW`, R102. -/
  | wireUw
  /-- `WIRE.PAYLOAD_BYTE`, R104: the packet byte `b`. -/
  | wirePayloadByte (b : Byte)
  /-- `WIRE.FOOTER`, R106: the footer of the length `len`. -/
  | wireFooter (len : Nat)
  /-- `WIRE.FILLER`, R109: the two-bit unit of idle filler. -/
  | wireFiller
  /-- `WIRE.FRAME.L1`, R100: the frame of the one-byte packet `b`. -/
  | wireFrameL1 (b : Byte)
  /-- `WIRE.FRAME_NOLEAD.L1`, R101: the same without its leading unique word. -/
  | wireFrameNoleadL1 (b : Byte)
  /-- `WORD.LENGTH`, R107: the length word of `len`. -/
  | wordLength (len : Nat)
  /-- `WORD.CODEWORD`, R140: the codeword of `d`, split into its upper 12 and its lower 11 bits. -/
  | wordCodeword (d : LengthWord)
  deriving DecidableEq, Repr

end Sys2Proof
end

