-- ==== Sys2Proof/WellFormed.lean ====
section
/-! DEFINITION. When an operation is well formed: its arguments are in the domain its rule gives the function, and fit the
operand fields of the model's own word layout (Decode.lean; entry 3). -/

namespace Sys2Proof

/-- A count or an index fits a 16-bit operand field. -/
def fits16 (n : Nat) : Bool := decide (n < 65536)

/-- A soft decision given as an operand of a pure function fits a 32-bit two's complement field (entry 3). Soft
decisions that reach a worker through its port are not limited by this. -/
def softFits (s : Soft) : Bool := decide (-2147483648 ≤ s) && decide (s < 2147483648)

/-- The least offset for which every position FRM.DEC can read is inside the window, `46 + 8*MTU` (R179). -/
abbrev frmDecMinOffset : Nat := 12846

/-- Well-formedness of an operation: the domain of each pure function (R141, R143, R160, R161, R172, R177, R179) and the
widths of the operand fields. -/
def Instr.wf : Instr → Bool
  | .golayEnc _ => true
  | .lenEnc len => decide (len ≤ mtu)
  | .lenIlv _ _ => true
  | .lenDec s _ => decide (s.length = 23) && s.all softFits
  | .uwCorr sd o => decide (o + uwLen ≤ sd.length) && fits16 o && fits16 (sd.length - (o + uwLen)) && sd.all softFits
  | .uwSearch sd lo hi =>
      decide (lo ≤ hi) && decide (hi + uwLen ≤ sd.length) && fits16 lo && fits16 (hi - lo) &&
        fits16 (sd.length - (hi + uwLen)) && sd.all softFits
  | .scr _ => true
  | .ser p => fits16 p.length
  | .deser bits => decide (bits.length % 8 = 0) && fits16 (bits.length / 8)
  | .frmEnc p _ => decide (p.length ≤ mtu)
  | .frmDec bits sd o =>
      decide (bits.length = sd.length) && decide (frmDecMinOffset ≤ o) && decide (o ≤ sd.length) &&
        fits16 (o - frmDecMinOffset) && fits16 (sd.length - o) && sd.all softFits
  | .filler m => fits16 m
  | .rxFill k => fits16 k
  | .rxSearch k => fits16 k
  | .rxValidate k => fits16 k
  | .rxExtract k => fits16 k
  | .rxShift k => fits16 k
  | .rxHalt k => fits16 k
  | .txWait => true
  | .txDevrd => true
  | .txAssign => true
  | .txDrain => true
  | .txFail => true
  | .txAbort => true
  | .sysReset => true
  | .sysCfgchk => true
  | .lenVote => true
  | .uwHard => true
  | .wireUw => true
  | .wirePayloadByte _ => true
  | .wireFooter len => decide (len ≤ mtu)
  | .wireFiller => true
  | .wireFrameL1 _ => true
  | .wireFrameNoleadL1 _ => true
  | .wordLength len => decide (len ≤ mtu)
  | .wordCodeword _ => true

end Sys2Proof
end

