-- ==== Sys2Proof/Decode.lean ====
section
/-! DEFINITION. The word of an operation: its number of 30_encoding.md R121 in the first byte, its arguments in the bytes
after it. The numbers are the spec's; nothing in the block decodes them, and the layout of the arguments is the model's own
(entry 3): counts and indexes in 16 bits, codewords in 24, soft decisions in 32 (two's complement), least significant byte
first, one byte per bit. The wire and word patterns of the opcode table have no number in the spec and get 0x80 to 0x87
(entry 4). `decode` is total and rejects by name; `encode` is written from the same layout. -/

namespace Sys2Proof

/-- Why a word decodes to no operation. -/
inductive DecodeError where
  /-- The word has no byte. -/
  | emptyWord
  /-- The first byte is no number of R121 (and none of the model's 0x80 to 0x87). -/
  | unknownOperation (op : Byte)
  /-- The word ends before its operands do. -/
  | truncated
  /-- An operand field holds a value outside its field's range (a bit byte above 1, a codeword of 24 bits). -/
  | badOperand
  deriving DecidableEq, Repr

/-- What a reader answers: a value and the bytes after it, or the reason there is none. -/
abbrev Read (α : Type) := Except DecodeError (α × List Byte)

/-- Read one operand, then go on with the bytes after it. -/
def readThen {α β : Type} (r : Read α) (f : α → List Byte → Read β) : Read β :=
  match r with
  | .ok (a, w) => f a w
  | .error e => .error e

/-- The number `x` in `n` bytes, least significant first. -/
def leBytes : Nat → Nat → List Byte
  | 0, _ => []
  | n + 1, x => BitVec.ofNat 8 x :: leBytes n (x / 256)

/-- The number that bytes stand for, least significant first. -/
def leNat : List Byte → Nat
  | [] => 0
  | b :: bs => b.toNat + 256 * leNat bs

/-- At least `n` bytes are there. -/
def atLeast : Nat → List Byte → Bool
  | 0, _ => true
  | _ + 1, [] => false
  | n + 1, _ :: t => atLeast n t

/-- Exactly `n` bytes. -/
def readBytes (n : Nat) (w : List Byte) : Read (List Byte) :=
  if atLeast n w then .ok (w.take n, w.drop n) else .error .truncated

/-- A number of `n` bytes. -/
def readNat (n : Nat) (w : List Byte) : Read Nat :=
  readThen (readBytes n w) fun b r => .ok (leNat b, r)

/-- A length of a packet, `0 .. MTU` (R141, R177). -/
def readLen (w : List Byte) : Read Nat :=
  readThen (readNat 2 w) fun n r => if n ≤ mtu then .ok (n, r) else .error .badOperand

/-- A bit vector of `width` bits held in `n` bytes. -/
def readVec (width n : Nat) (w : List Byte) : Read (BitVec width) :=
  readThen (readNat n w) fun x r => if x < 2 ^ width then .ok (BitVec.ofNat width x, r) else .error .badOperand

/-- `n` bits, one byte each. -/
def readBits (n : Nat) (w : List Byte) : Read Bits :=
  readThen (readBytes n w) fun b r =>
    if b.all (fun x => x == 0 || x == 1) then .ok (b.map (fun x => x == 1), r) else .error .badOperand

/-- One bit. -/
def readBit (w : List Byte) : Read Bool :=
  readThen (readNat 1 w) fun x r => if x < 2 then .ok (x == 1, r) else .error .badOperand

/-- A bit in one byte. -/
def bitByte (b : Bool) : Byte := if b then 1 else 0

/-- The soft decision a 32-bit two's complement number stands for. -/
def softOfNat (x : Nat) : Soft := if x < 2147483648 then (x : Int) else (x : Int) - 4294967296

/-- A soft decision in four bytes, two's complement. -/
def softBytes (s : Soft) : List Byte := leBytes 4 (s % 4294967296).toNat

/-- The soft decisions in a sequence of bytes, four bytes each. -/
def softsOf : List Byte → List Soft
  | a :: b :: c :: d :: t => softOfNat (leNat [a, b, c, d]) :: softsOf t
  | _ => []

/-- `n` soft decisions. -/
def readSofts (n : Nat) (w : List Byte) : Read (List Soft) :=
  readThen (readBytes (4 * n) w) fun b r => .ok (softsOf b, r)

/-- The number of an operation: R121 for the operations and the reserved ones, 0x80 to 0x87 for the patterns (entry 4). -/
def opNumber : Instr → Byte
  | .golayEnc _ => 0x01
  | .lenEnc _ => 0x02
  | .lenIlv _ _ => 0x03
  | .lenDec _ _ => 0x04
  | .lenVote => 0x05
  | .uwCorr _ _ => 0x10
  | .uwSearch _ _ _ => 0x11
  | .uwHard => 0x12
  | .scr _ => 0x20
  | .ser _ => 0x21
  | .deser _ => 0x22
  | .frmEnc _ _ => 0x23
  | .frmDec _ _ _ => 0x24
  | .filler _ => 0x25
  | .rxFill _ => 0x30
  | .rxSearch _ => 0x31
  | .rxValidate _ => 0x32
  | .rxExtract _ => 0x33
  | .rxShift _ => 0x34
  | .rxHalt _ => 0x35
  | .txWait => 0x40
  | .txDevrd => 0x41
  | .txAssign => 0x42
  | .txDrain => 0x43
  | .txFail => 0x44
  | .txAbort => 0x45
  | .sysReset => 0x50
  | .sysCfgchk => 0x51
  | .wireUw => 0x80
  | .wirePayloadByte _ => 0x81
  | .wireFooter _ => 0x82
  | .wireFiller => 0x83
  | .wireFrameL1 _ => 0x84
  | .wireFrameNoleadL1 _ => 0x85
  | .wordLength _ => 0x86
  | .wordCodeword _ => 0x87

/-- The operands of the operation with number `op`, read from the bytes after the number. -/
def decodeOperands (op : Byte) (w : List Byte) : Read Instr :=
  match op.toNat with
  | 0x01 => readThen (readVec 12 2 w) fun v r => .ok (.golayEnc v, r)
  | 0x02 => readThen (readLen w) fun n r => .ok (.lenEnc n, r)
  | 0x03 => readThen (readVec 23 3 w) fun a r => readThen (readVec 23 3 r) fun b r => .ok (.lenIlv a b, r)
  | 0x04 => readThen (readBit w) fun p r => readThen (readSofts 23 r) fun s r => .ok (.lenDec s p, r)
  | 0x05 => .ok (.lenVote, w)
  | 0x10 => readThen (readNat 2 w) fun o r => readThen (readNat 2 r) fun e r =>
      readThen (readSofts (o + uwLen + e) r) fun sd r => .ok (.uwCorr sd o, r)
  | 0x11 => readThen (readNat 2 w) fun lo r => readThen (readNat 2 r) fun d r => readThen (readNat 2 r) fun e r =>
      readThen (readSofts (lo + d + uwLen + e) r) fun sd r => .ok (.uwSearch sd lo (lo + d), r)
  | 0x12 => .ok (.uwHard, w)
  | 0x20 => readThen (readVec 8 1 w) fun b r => .ok (.scr b, r)
  | 0x21 => readThen (readNat 2 w) fun n r => readThen (readBytes n r) fun p r => .ok (.ser p, r)
  | 0x22 => readThen (readNat 2 w) fun n r => readThen (readBits (8 * n) r) fun b r => .ok (.deser b, r)
  | 0x23 => readThen (readBit w) fun l r => readThen (readLen r) fun n r =>
      readThen (readBytes n r) fun p r => .ok (.frmEnc p l, r)
  | 0x24 => readThen (readNat 2 w) fun x r => readThen (readNat 2 r) fun e r =>
      readThen (readBits (frmDecMinOffset + x + e) r) fun b r =>
        readThen (readSofts (frmDecMinOffset + x + e) r) fun sd r => .ok (.frmDec b sd (frmDecMinOffset + x), r)
  | 0x25 => readThen (readNat 2 w) fun m r => .ok (.filler m, r)
  | 0x30 => readThen (readNat 2 w) fun k r => .ok (.rxFill k, r)
  | 0x31 => readThen (readNat 2 w) fun k r => .ok (.rxSearch k, r)
  | 0x32 => readThen (readNat 2 w) fun k r => .ok (.rxValidate k, r)
  | 0x33 => readThen (readNat 2 w) fun k r => .ok (.rxExtract k, r)
  | 0x34 => readThen (readNat 2 w) fun k r => .ok (.rxShift k, r)
  | 0x35 => readThen (readNat 2 w) fun k r => .ok (.rxHalt k, r)
  | 0x40 => .ok (.txWait, w)
  | 0x41 => .ok (.txDevrd, w)
  | 0x42 => .ok (.txAssign, w)
  | 0x43 => .ok (.txDrain, w)
  | 0x44 => .ok (.txFail, w)
  | 0x45 => .ok (.txAbort, w)
  | 0x50 => .ok (.sysReset, w)
  | 0x51 => .ok (.sysCfgchk, w)
  | 0x80 => .ok (.wireUw, w)
  | 0x81 => readThen (readVec 8 1 w) fun b r => .ok (.wirePayloadByte b, r)
  | 0x82 => readThen (readLen w) fun n r => .ok (.wireFooter n, r)
  | 0x83 => .ok (.wireFiller, w)
  | 0x84 => readThen (readVec 8 1 w) fun b r => .ok (.wireFrameL1 b, r)
  | 0x85 => readThen (readVec 8 1 w) fun b r => .ok (.wireFrameNoleadL1 b, r)
  | 0x86 => readThen (readLen w) fun n r => .ok (.wordLength n, r)
  | 0x87 => readThen (readVec 12 2 w) fun d r => .ok (.wordCodeword d, r)
  | _ => .error (.unknownOperation op)

/-- The operation at the front of a word, and the bytes after it. -/
def decode : List Byte → Read Instr
  | [] => .error .emptyWord
  | op :: w => decodeOperands op w

/-- The operand bytes of an operation. -/
def encodeOperands : Instr → List Byte
  | .golayEnc v => leBytes 2 v.toNat
  | .lenEnc len => leBytes 2 len
  | .lenIlv a b => leBytes 3 a.toNat ++ leBytes 3 b.toNat
  | .lenDec s par => bitByte par :: s.flatMap softBytes
  | .uwCorr sd o => leBytes 2 o ++ leBytes 2 (sd.length - (o + uwLen)) ++ sd.flatMap softBytes
  | .uwSearch sd lo hi =>
      leBytes 2 lo ++ leBytes 2 (hi - lo) ++ leBytes 2 (sd.length - (hi + uwLen)) ++ sd.flatMap softBytes
  | .scr b => [b]
  | .ser p => leBytes 2 p.length ++ p
  | .deser bits => leBytes 2 (bits.length / 8) ++ bits.map bitByte
  | .frmEnc p lead => bitByte lead :: (leBytes 2 p.length ++ p)
  | .frmDec bits sd o =>
      leBytes 2 (o - frmDecMinOffset) ++ leBytes 2 (sd.length - o) ++ bits.map bitByte ++ sd.flatMap softBytes
  | .filler m => leBytes 2 m
  | .rxFill k => leBytes 2 k
  | .rxSearch k => leBytes 2 k
  | .rxValidate k => leBytes 2 k
  | .rxExtract k => leBytes 2 k
  | .rxShift k => leBytes 2 k
  | .rxHalt k => leBytes 2 k
  | .txWait => []
  | .txDevrd => []
  | .txAssign => []
  | .txDrain => []
  | .txFail => []
  | .txAbort => []
  | .sysReset => []
  | .sysCfgchk => []
  | .lenVote => []
  | .uwHard => []
  | .wireUw => []
  | .wirePayloadByte b => [b]
  | .wireFooter len => leBytes 2 len
  | .wireFiller => []
  | .wireFrameL1 b => [b]
  | .wireFrameNoleadL1 b => [b]
  | .wordLength len => leBytes 2 len
  | .wordCodeword d => leBytes 2 d.toNat

/-- The word of an operation. -/
def encode (i : Instr) : List Byte := opNumber i :: encodeOperands i

/-- The length in bytes of the longest word of a well-formed operation (`UW.SEARCH` with every count at 65535). -/
def longestWord : Nat := 786619

/-- Fetch an operation from a slot of the script: the bytes past the end of the slot's list read as 0. -/
def fetchWord (slot : List Byte) : Except DecodeError Instr :=
  match decode (slot ++ List.replicate longestWord 0) with
  | .ok (i, _) => .ok i
  | .error e => .error e

/-- The bytes of a word of `nbits` bits numbered as the opcode table numbers them. -/
def tableWordBytes (nbits w : Nat) : List Byte := leBytes ((nbits + 7) / 8) w

/-- The operation the decoder reads from the word `w` of `nbits` bits, every bit above them 0. -/
def decodeTableWord (nbits w : Nat) : Option Instr :=
  match fetchWord (tableWordBytes nbits w) with
  | .ok i => some i
  | .error _ => none

end Sys2Proof
end

