-- ==== Sys2Proof/Machine/Types.lean ====
section
/-! DEFINITION. The parts the state is made of: causes and outcomes (60_exceptions.md R240), the state of a receive channel,
a transmit channel and the scheduler (10_state.md R40 to R55), what crosses the ports (R256 to R263), what the environment
shows at them, and the moves of the script. -/

namespace Sys2Proof.Machine

/-- The outcomes and causes of R240. The reserved codes 5, 6, 7 and 15 have no constructor (R124). -/
inductive Cause where
  | none | accepted | filler | queued | busy | lenMismatch | lenRange | rxEos | rxOpen | txSink | cfg | assertBacklog
  deriving DecidableEq, Repr

/-- The classes of R240 and R249: what taking a cause does. -/
inductive CauseClass where
  /-- Not an error: nothing but the trace event. -/
  | outcome
  /-- Recoverable: nothing but the trace event. -/
  | transient
  /-- One receive channel halts. -/
  | terminalRx
  /-- One transmit channel dies. -/
  | terminalTx
  /-- The whole block stops. -/
  | fatal
  deriving DecidableEq, Repr

/-- The states of a receive worker, R40. The codes 5 and 6 are never written and have no constructor. -/
inductive RxSt where
  | fill | search | validate | extract | shift | halt
  deriving DecidableEq, Repr

/-- The verdict of a candidate, R47. -/
inductive Verdict where
  | none | accept | filler | reject
  deriving DecidableEq, Repr

/-- The phases of the scheduler, R52. -/
inductive Phase where
  | wait | devrd | assign | drain
  deriving DecidableEq, Repr

/-- The state of one receive channel (R40 to R48). -/
structure RxChan where
  st        : RxSt
  bits      : Bits
  sd        : List Soft
  wr        : Nat
  n         : Nat
  cand      : Nat
  candScore : Int
  lenA      : Nat
  lenB      : Nat
  confA     : Int
  confB     : Int
  verdict   : Verdict
  haltCode  : Cause
  deriving DecidableEq, Repr

/-- The state of one transmit channel (R49 to R51). -/
structure TxChan where
  q     : Bits
  real  : Nat
  alive : Bool
  deriving DecidableEq, Repr

/-- The scheduler's own state (R52 to R55). -/
structure Sched where
  ph        : Phase
  evDev     : Bool
  evWr      : List Bool
  ci        : Nat
  pendValid : Bool
  pendLen   : Nat
  pendData  : List Byte
  deriving DecidableEq, Repr

/-- The stored index spaces of R70, and the operand sequences of the pure functions. -/
inductive Space where
  | rxbits | rxsd | txq | pend | operand
  deriving DecidableEq, Repr

/-- One transfer of the chunk port `rxin[k]` (R257). `ebno` is carried and used by nothing (R264). -/
structure Chunk where
  eos   : Bool
  n     : Nat
  cbits : Bits
  csd   : List Soft
  ebno  : Int
  deriving DecidableEq, Repr

/-- The environment's answer to a quantum (R258). -/
inductive TxAnswer where
  /-- The quantum is taken and its write succeeded. -/
  | ok
  /-- The quantum is taken and its write failed. -/
  | err
  /-- The environment shows readiness and does not take the quantum (U18). -/
  | notTaken
  deriving DecidableEq, Repr

/-- One diagnostic event of the trace port (R263). -/
structure TraceEvent where
  op   : Byte
  ch   : Option Nat
  code : Cause
  info : List Int
  deriving DecidableEq, Repr

/-- One transfer on a port of R256, as the log records it. -/
inductive PortEvent where
  /-- A chunk, or the end of stream, taken from `rxin[k]`. -/
  | rxin (k : Nat) (t : Chunk)
  /-- A quantum emitted on `txout[c]`, and its answer. -/
  | txout (c : Nat) (quantum : Bits) (answer : TxAnswer)
  /-- A packet emitted on `devwr`. -/
  | devwr (p : Packet)
  /-- A packet taken from `devrd`. -/
  | devrd (p : Packet)
  /-- An event emitted on `trace`. -/
  | trace (e : TraceEvent)
  deriving DecidableEq, Repr

/-- What the environment shows at the ports (R256 to R261, R282): the MODEL's own, entry 7. A list holds one entry per
channel; an absent entry reads as nothing offered, not ready, 0 (entry 14). -/
structure Env where
  /-- The reset input (R280). -/
  rst        : Bool
  /-- Start-up input `args_ok` (R282). -/
  argsOk     : Bool
  /-- Start-up inputs `tx_sink_ok[c]` (R282). -/
  txSinkOk   : List Bool
  /-- Start-up input `dev_ok` (R282). -/
  devOk      : Bool
  /-- Start-up inputs `rx_src_ok[k]` (R282). -/
  rxSrcOk    : List Bool
  /-- The configuration the next SYS.RESET takes (R280 b; entry 11). -/
  cfgIn      : Cfg
  /-- The transfers offered on `rxin[k]`, the next one first (R257). -/
  rxin       : List (List Chunk)
  /-- The packets the device offers, the next one first (R260); `dev_avail` is that there is one. -/
  devPkts    : List Packet
  /-- Readiness `tx_rdy[c]` (R258). -/
  txRdy      : List Bool
  /-- The answer the next quantum of `c` will get (R258). -/
  txAns      : List TxAnswer
  /-- Readiness of `devwr` (R259). -/
  devwrReady : Bool
  /-- Whether `devwr` is still ready after a transfer (R259, R261; entry 8). -/
  devwrHold  : Bool
  deriving DecidableEq, Repr

/-- The tagged result of `FRM.DEC` (R178). -/
inductive FrmResult where
  | accepted (payload : Packet)
  | filler
  | rejected (cause : Cause) (la lb : Nat)
  deriving DecidableEq, Repr

/-- What a pure function returns: the MODEL's own latch, entry 5. -/
inductive Ret where
  | nothing
  | codeword (cw : Codeword)
  | pair (a b : Codeword)
  | bits (b : Bits)
  | lenConf (value : Nat) (conf : Int)
  | score (x : Int)
  | offset (o : Nat) (x : Int)
  | byte (b : Byte)
  | packet (p : Packet)
  /-- The result of `FRM.DEC` with the two decoded lengths and confidences alongside (R179). -/
  | frame (r : FrmResult) (la : Nat) (ca : Int) (lb : Nat) (cb : Int)
  | lengthWord (w : LengthWord)
  /-- A codeword as the pattern `WORD.CODEWORD` splits it: bits 22..11 and bits 10..0. -/
  | codewordFields (d : LengthWord) (r : BitVec 11)
  deriving DecidableEq, Repr

/-- One thing the environment does between two operations (R126, R265). -/
inductive EnvEvent where
  /-- `dev.pkt`: the device offers one more packet. -/
  | devPkt (p : Packet)
  /-- The device withdraws the packets it offers (U18). -/
  | devWithdraw
  /-- `tx.ready c`. -/
  | txReady (c : Nat)
  /-- `tx.err c` and its kin: how the next quantum of `c` is answered. -/
  | txAnswer (c : Nat) (a : TxAnswer)
  /-- `rx.chunk k`, `rx.eos k`: one more transfer is offered on `rxin[k]`. -/
  | rxOffer (k : Nat) (t : Chunk)
  /-- Readiness of `devwr`, now and after the next transfer. -/
  | devwr (ready hold : Bool)
  /-- The level of `rst`. -/
  | rst (level : Bool)
  /-- The start-up inputs (R282). -/
  | startup (argsOk : Bool) (txSinkOk : List Bool) (devOk : Bool) (rxSrcOk : List Bool)
  /-- Another configuration is presented (R280 b). -/
  | cfg (g : Cfg)
  deriving DecidableEq, Repr

/-- One move of the script (R126; entry 6): an operation, as its word, or something the environment does. -/
inductive Move where
  | op (slot : List Byte)
  | env (e : EnvEvent)
  deriving DecidableEq, Repr

end Sys2Proof.Machine
end

