-- ==== Sys2Proof/Machine/ResetValues.lean ====
section
/-! DEFINITION. Reset values (10_state.md R61), the default `GolayEnc` (40_length_codec.md R140), the unique word built from
a tag (20_memory.md R77), and the test configuration of 95_test_vectors.md section 2, which State.reset uses (entry 1). -/

namespace Sys2Proof.Machine

/-- The alternation of idle filler, `bits[j] = j mod 2` (R174, R109). -/
def fillerBits (m : Nat) : Bits := (List.range m).map fun j => j % 2 == 1

/-- The unique word of a tag: characters in order, each least significant bit first, so the first character's code is the
low byte (R77). -/
def uwOfTag (tag : List Byte) : BitVec 48 := BitVec.ofNat 48 (leNat tag)

/-- The codewords of the one-bit values 0x001, 0x002, .. 0x800 under the default `GolayEnc` (the table of R140). -/
def golayDefaultRows : Vector Codeword 12 :=
  #v[0x000C75, 0x00149F, 0x00254B, 0x0046E3, 0x0081B3, 0x010366,
     0x0206CC, 0x0401ED, 0x0803DA, 0x1007B4, 0x20031D, 0x40063A]

/-- One division step of R140 for the bit `11 + x`. -/
def golayDivStep (r : Codeword) (x : Nat) : Codeword :=
  if r.getLsbD (11 + x) then r ^^^ ((0xC75 : Codeword) <<< x) else r

/-- The default body of `GolayEnc` (R140): the data in bits 22..11, and the remainder of its division by 0xC75 below. -/
def golayPoly (v : LengthWord) : Codeword :=
  let c : Codeword := v.setWidth 23 <<< 11
  let r := [11, 10, 9, 8, 7, 6, 5, 4, 3, 2, 1, 0].foldl golayDivStep c
  c ||| r

/-- The test configuration of 95_test_vectors.md section 2: the tag `CODEC2`, the default encoder, one receive and one
transmit channel of 64 bits, at most 4 channels, soft decisions of 8 bits. The spec leaves these parameters open; the choice
stands in State.reset only (DESIGN CHOICE, entry 1). -/
def testCfg : Cfg :=
  { uw := uwOfTag [0x43, 0x4F, 0x44, 0x45, 0x43, 0x32]
    golay := golayDefaultRows
    maxCh := 4
    nbRx := [64]
    nbTx := [64]
    sdW := 8 }

/-- Receive channel `k` after SYS.RESET (R61, R280). -/
def resetRx (g : Cfg) (k : Nat) : RxChan :=
  { st := .fill
    bits := List.replicate (g.wRx k) false
    sd := List.replicate (g.wRx k) 0
    wr := base
    n := 0
    cand := 0
    candScore := 0
    lenA := 0
    lenB := 0
    confA := 0
    confB := 0
    verdict := .none
    haltCode := .none }

/-- Transmit channel `c` after SYS.RESET (R61): all idle filler. -/
def resetTx (g : Cfg) (c : Nat) : TxChan :=
  { q := fillerBits (g.wTx c)
    real := 0
    alive := true }

/-- The scheduler after SYS.RESET (R61), with the bytes `pend` in the backlog slot, which the spec leaves unspecified. -/
def resetSched (g : Cfg) (pend : List Byte) : Sched :=
  { ph := .wait
    evDev := false
    evWr := List.replicate g.ntx false
    ci := 0
    pendValid := false
    pendLen := 0
    pendData := pend }

/-- The bytes State.reset has in the backlog slot: 0 (DESIGN CHOICE, entry 12; R61 leaves them unspecified). -/
def resetPend : List Byte := List.replicate mtu 0

/-- An environment that offers nothing, opens every source and sink, and whose device takes every packet (entry 14). -/
def quietEnv (g : Cfg) : Env :=
  { rst := false
    argsOk := true
    txSinkOk := List.replicate g.ntx true
    devOk := true
    rxSrcOk := List.replicate g.nrx true
    cfgIn := g
    rxin := List.replicate g.nrx []
    devPkts := []
    txRdy := List.replicate g.ntx false
    txAns := List.replicate g.ntx .ok
    devwrReady := true
    devwrHold := true }

end Sys2Proof.Machine
end

