-- ==== Sys2Proof/Machine/State.lean ====
section
/-! DEFINITION. The state of the framer (10_state.md R30), the model's own fields beside it, the reasons a step can stop,
and the state after reset. -/

namespace Sys2Proof.Machine

/-- The state. `fatal`, `fatalCode`, `rx`, `tx`, `sch` are the spec's tuple (R30); the other fields are the MODEL's own. -/
structure State where
  /-- A fatal condition has happened (R31). -/
  fatal      : Bool
  /-- The cause that set `fatal` (R31). -/
  fatalCode  : Cause
  /-- The receive channels (R40 to R48). -/
  rx         : List RxChan
  /-- The transmit channels (R49 to R51). -/
  tx         : List TxChan
  /-- The scheduler (R52 to R55). -/
  sch        : Sched
  /-- The parameter record in force since the last SYS.RESET (R12; entry 1). -/
  cfg        : Cfg
  /-- What the environment shows at the ports (entry 7). -/
  env        : Env
  /-- SYS.RESET has been done and SYS.CFGCHK has not (R281; entry 10). -/
  chkPending : Bool
  /-- What the last pure function returned (entry 5). -/
  ret        : Ret
  /-- The transfers on the ports so far, oldest first (R24; entry 19). -/
  log        : List PortEvent
  /-- The moves still to be made, oldest first (entry 6). -/
  script     : List Move
  /-- The agent the round-robin choice looks at first (entry 6). -/
  turn       : Nat
  /-- The counter the free values are drawn with (entry 13). -/
  freeCtr    : Nat
  deriving DecidableEq, Repr

/-- Why the model faults. -/
inductive Fault where
  /-- An operation computed the positions `pos .. pos+n-1` outside the `len` positions of a space (R81, U8). Raised by
  every operation that reads or writes a buffer and by the pure functions with an offset. Safe: no rule of the spec
  computes such a position, and the model stops instead of making up a value. -/
  | outOfRange (space : Space) (pos n len : Nat)
  deriving DecidableEq, Repr

/-- Why the model has no meaning for a step. -/
inductive Refusal where
  /-- The instruction has no meaning in the model yet. Raised by `exec` only. Safe. -/
  | notModelled (mnemonic : String)
  /-- A reserved operation, excluded by the source and without semantics (R9, R124, U4). Safe. -/
  | reservedOperation (mnemonic : String)
  /-- The operation names a receive channel at or above NRX, or an environment event a channel that does not exist:
  there is no such agent or port (R120, R256). Safe. -/
  | noSuchChannel (ch : Nat)
  /-- A packet longer than MTU was taken from `devrd` (R215 c, R260, U5). Safe. -/
  | packetTooLong (len : Nat)
  /-- A chunk with `eos = 0` breaks the contract of `rxin[k]`: `n = 0`, `n > NB_RX[k]`, a number of bits or soft
  decisions other than `n`, or a soft decision wider than SD_W (R257, U6). Safe. -/
  | chunkContract (k n : Nat)
  /-- A pure function was given arguments outside its domain (R123, R141, R172, R177). Safe. -/
  | outsideDomain
  /-- The environment presents another configuration while `rst` is not asserted (R88, U21). Safe. -/
  | cfgWithoutReset
  /-- The environment moves a start-up input between the release of `rst` and SYS.CFGCHK (R282, U23). Safe. -/
  | startupMoved
  /-- The word in the script decodes to no operation (R121). Safe. -/
  | undecodable (e : DecodeError)
  deriving DecidableEq, Repr

/-- What a meaning answers. -/
abbrev Out := Host.Outcome State Fault Refusal

/-- The state of the block after SYS.RESET and a successful SYS.CFGCHK under the configuration `g` (R281, R61), in an
environment `e`, with nothing in the script. -/
def State.boot (g : Cfg) (e : Env) : State :=
  { fatal := false
    fatalCode := .none
    rx := (List.range g.nrx).map (resetRx g)
    tx := (List.range g.ntx).map (resetTx g)
    sch := resetSched g resetPend
    cfg := g
    env := e
    chkPending := false
    ret := .nothing
    log := []
    script := []
    turn := 0
    freeCtr := 0 }

/-- The machine right after reset: SYS.RESET and SYS.CFGCHK with every start-up input good (R281, R61), under the test
configuration (entry 1), in the quiet environment (entry 14). -/
def State.reset : State := State.boot testCfg (quietEnv testCfg)

end Sys2Proof.Machine
end

