-- ==== Sys2Proof/Machine/Operands.lean ====
section
/-! DEFINITION. How operations assemble their operands: the soft-decision helper (00_scope.md R18), the correlation sum
behind `UW.CORR` and `LEN.DEC` (R146, R163), the upward scan with a strict comparison (R143, R161), the bits of codewords
and bytes in wire order (R74, R76), and the two interleavings of a footer (R112). -/

namespace Sys2Proof.Machine

/-- `soft(b, s)`: `+s` for a 1 bit, `-s` for a 0 bit, exactly (R18). -/
def soft (b : Bool) (s : Soft) : Int := if b then s else -s

/-- The exact integer sum of `soft(b[i], s[i])` over the common positions (R146, R163). -/
def corr : Bits → List Soft → Int
  | b :: bs, s :: ss => soft b s + corr bs ss
  | _, _ => 0

/-- Scan `fuel` positions from `p` upward; the comparison is strict, so the least position of the greatest score wins
(R143 a, R161 a). -/
def scanFrom (score : Nat → Int) : Nat → Nat → Nat → Int → Nat × Int
  | 0, _, best, x => (best, x)
  | fuel + 1, p, best, x =>
    if score p > x then scanFrom score fuel (p + 1) p (score p) else scanFrom score fuel (p + 1) best x

/-- The least position of `lo .. lo+n` with the greatest score, and that score. -/
def scanMax (score : Nat → Int) (lo n : Nat) : Nat × Int := scanFrom score n (lo + 1) lo (score lo)

/-- The bits of a codeword, least significant first (R76). -/
def codewordBits (cw : Codeword) : Bits := (List.range 23).map fun i => cw.getLsbD i

/-- The bits of a byte, least significant first (R74). -/
def byteBits (b : Byte) : Bits := (List.range 8).map fun j => b.getLsbD j

/-- The number eight bits stand for, bit `j` weighing `2^j` (R172). -/
def bitsNat : Bits → Nat
  | [] => 0
  | b :: bs => b.toNat + 2 * bitsNat bs

/-- The elements at the even positions (codeword A's of a footer, R112). -/
def evens {α : Type} : List α → List α
  | a :: _ :: t => a :: evens t
  | [a] => [a]
  | [] => []

/-- The elements at the odd positions (codeword B's of a footer, R112). -/
def odds {α : Type} : List α → List α
  | _ :: b :: t => b :: odds t
  | _ => []

end Sys2Proof.Machine
end

