-- ==== Sys2Proof/Machine/Flags.lean ====
section
/-! DEFINITION. The derived predicates of 10_state.md R56, the verdict of R194, the numeric codes of R40, R47, R52 and
R240, the classes of the causes, and the status outputs of R57. -/

namespace Sys2Proof.Machine

/-- `free(c)`: alive, and at most one unique word of real data queued (R211). -/
def TxChan.isFree (t : TxChan) : Bool := t.alive && decide (t.real ≤ uwLen)

/-- `need_uw(c)`: no real data queued, so a fresh unique word is prepended (R176). -/
def TxChan.needUw (t : TxChan) : Bool := t.real == 0

/-- `watch_dev`: the backlog slot is empty (R213). -/
def Sched.watchDev (q : Sched) : Bool := !q.pendValid

/-- The device read port offers a packet (R260). -/
def Env.devAvail (e : Env) : Bool := !e.devPkts.isEmpty

/-- The channel numbers below `m` whose channel is alive and shows readiness (R214). -/
def readyFlags (tx : List TxChan) (rdy : List Bool) : List Bool :=
  (List.range tx.length).map fun c => ((tx[c]?).map TxChan.alive).getD false && rdy.getD c false

/-- At least one watched event is present (R214). -/
def State.eventPresent (s : State) : Bool :=
  (s.sch.watchDev && s.env.devAvail) || (readyFlags s.tx s.env.txRdy).any id

/-- The verdict on two decoded lengths (R194); an agreed length above MTU, which `LEN.DEC` cannot return, counts as a
mismatch (R242, U1). -/
def verdictOf (la lb : Nat) : Verdict :=
  if la ≠ lb then .reject else if la = 0 then .filler else if la ≤ mtu then .accept else .reject

/-- The 4-bit code of a cause (R240). -/
def Cause.code : Cause → BitVec 4
  | .none => 0
  | .accepted => 1
  | .filler => 2
  | .queued => 3
  | .busy => 4
  | .lenMismatch => 8
  | .lenRange => 9
  | .rxEos => 10
  | .rxOpen => 11
  | .txSink => 12
  | .cfg => 13
  | .assertBacklog => 14

/-- The class of a cause (R240, R249). -/
def Cause.cls : Cause → CauseClass
  | .none => .outcome
  | .accepted => .outcome
  | .filler => .outcome
  | .queued => .outcome
  | .busy => .outcome
  | .lenMismatch => .transient
  | .lenRange => .transient
  | .rxEos => .terminalRx
  | .rxOpen => .terminalRx
  | .txSink => .terminalTx
  | .cfg => .fatal
  | .assertBacklog => .fatal

/-- The 3-bit code of a worker's state (R40). -/
def RxSt.code : RxSt → BitVec 3
  | .fill => 0
  | .search => 1
  | .validate => 2
  | .extract => 3
  | .shift => 4
  | .halt => 7

/-- The 2-bit code of a verdict (R47). -/
def Verdict.code : Verdict → BitVec 2
  | .none => 0
  | .accept => 1
  | .filler => 2
  | .reject => 3

/-- The 2-bit code of a phase (R52). -/
def Phase.code : Phase → BitVec 2
  | .wait => 0
  | .devrd => 1
  | .assign => 2
  | .drain => 3

/-- The status levels of R57 for one transmit channel: `alive`, and `real` in its 14 bits (R50). -/
def txStatus (t : TxChan) : Bool × BitVec 14 := (t.alive, BitVec.ofNat 14 t.real)

/-- The status levels of R57 for one receive channel: `st` and `halt_code`. -/
def rxStatus (r : RxChan) : BitVec 3 × BitVec 4 := (r.st.code, r.haltCode.code)

/-- The status outputs of R57, in its order: `fatal`, `fatal_code`, the receive channels, the transmit channels,
`pend_valid`. -/
def statusOutputs (s : State) :
    Bool × BitVec 4 × List (BitVec 3 × BitVec 4) × List (Bool × BitVec 14) × Bool :=
  (s.fatal, s.fatalCode.code, s.rx.map rxStatus, s.tx.map txStatus, s.sch.pendValid)

end Sys2Proof.Machine
end

