-- ==== Sys2Proof/Machine/Ops.lean ====
section
/-! DEFINITION. The named operations every meaning is made of: MemRead and MemWrite over a buffer (00_scope.md R17, R70,
R81), the updates of the state's parts, the transfers on the ports (60_exceptions.md R256 to R263), taking a cause
(`raiseCause`, R249) and the only return from one (`resetBlock`, R254, R280), and the enabling conditions of a worker's and
the scheduler's operations (R190, R210). -/

namespace Sys2Proof.Machine

/-! Buffers. -/

/-- `MemRead(space, pos, n)`: partial, defined only inside the space (R70, R81). -/
def memRead {α : Type} (xs : List α) (pos n : Nat) : Option (List α) :=
  if pos + n ≤ xs.length then some ((xs.drop pos).take n) else none

/-- `MemWrite(space, pos, n, v)` with `n = len(v)`: partial, defined only inside the space (R70, R81). -/
def memWrite {α : Type} (xs : List α) (pos : Nat) (v : List α) : Option (List α) :=
  if pos + v.length ≤ xs.length then some (xs.take pos ++ v ++ xs.drop (pos + v.length)) else none

/-- Move every element down by `len(tail)` positions and put `tail` at the end (R196, R218). -/
def shiftIn {α : Type} (xs tail : List α) : Option (List α) :=
  if tail.length ≤ xs.length then some (xs.drop tail.length ++ tail) else none

/-- Read a buffer and go on with what was read, or fault (R81). -/
def readOr {α : Type} (sp : Space) (xs : List α) (pos n : Nat) (go : List α → Out) : Out :=
  match memRead xs pos n with
  | some v => go v
  | none => .fault (.outOfRange sp pos n xs.length)

/-- Write a buffer and go on with its new contents, or fault (R81). -/
def writeOr {α : Type} (sp : Space) (xs : List α) (pos : Nat) (v : List α) (go : List α → Out) : Out :=
  match memWrite xs pos v with
  | some ys => go ys
  | none => .fault (.outOfRange sp pos v.length xs.length)

/-- Shift a buffer and go on with its new contents, or fault (R81). -/
def shiftOr {α : Type} (sp : Space) (xs tail : List α) (go : List α → Out) : Out :=
  match shiftIn xs tail with
  | some ys => go ys
  | none => .fault (.outOfRange sp 0 tail.length xs.length)

/-- Put `v` at position `k` of a list of the environment's entries, absent entries before it reading `d` (entry 14). -/
def setPad {α : Type} (d v : α) : List α → Nat → List α
  | [], 0 => [v]
  | _ :: xs, 0 => v :: xs
  | [], k + 1 => d :: setPad d v [] k
  | x :: xs, k + 1 => x :: setPad d v xs k

/-! The parts of the state. -/

/-- Replace receive channel `k`. -/
def State.setRx (s : State) (k : Nat) (r : RxChan) : State := { s with rx := s.rx.set k r }

/-- Replace transmit channel `c`. -/
def State.setTx (s : State) (c : Nat) (t : TxChan) : State := { s with tx := s.tx.set c t }

/-- Replace the scheduler. -/
def State.setSch (s : State) (q : Sched) : State := { s with sch := q }

/-- Latch what a pure function returned (entry 5). -/
def State.setRet (s : State) (v : Ret) : State := { s with ret := v }

/-- Record one transfer on a port (R24). -/
def State.emit (s : State) (e : PortEvent) : State := { s with log := s.log ++ [e] }

/-- `trace(op, ch, code, info)` (R17, R263). -/
def State.traceEv (s : State) (op : Byte) (ch : Option Nat) (code : Cause) (info : List Int) : State :=
  s.emit (.trace { op := op, ch := ch, code := code, info := info })

/-! Transfers. -/

/-- The transfer `rxin[k]` offers (R257). -/
def State.rxOffered (s : State) (k : Nat) : Option Chunk := (s.env.rxin.getD k []).head?

/-- `take rxin[k]`: the offered transfer is consumed (R84, R257). -/
def State.takeRxin (s : State) (k : Nat) (t : Chunk) : State :=
  { s with env := { s.env with rxin := s.env.rxin.set k (s.env.rxin.getD k []).tail } }.emit (.rxin k t)

/-- `take devrd`: the offered packet is consumed (R84, R260). -/
def State.takeDevrd (s : State) (p : Packet) : State :=
  { s with env := { s.env with devPkts := s.env.devPkts.tail } }.emit (.devrd p)

/-- `emit devwr(p)` (R259); the transfer clears the readiness unless the device holds it (R261; entry 8). -/
def State.emitDevwr (s : State) (p : Packet) : State :=
  { s with env := { s.env with devwrReady := s.env.devwrHold } }.emit (.devwr p)

/-- The answer the next quantum of channel `c` gets (R258). -/
def State.answer (s : State) (c : Nat) : TxAnswer := s.env.txAns.getD c .ok

/-- `emit txout[c](quantum)` with its answer (R258); the transfer clears the readiness (R261), and the answer given is used
up (R126). -/
def State.emitTxout (s : State) (c : Nat) (quantum : Bits) (a : TxAnswer) : State :=
  { s with env := { s.env with txRdy := s.env.txRdy.set c false, txAns := s.env.txAns.set c .ok } }.emit
    (.txout c quantum a)

/-- The contract of a chunk with `eos = 0` on `rxin[k]` (R257): `1 <= n <= NB_RX[k]`, `n` bits, `n` soft decisions of
`SD_W` bits. -/
def chunkOk (g : Cfg) (k : Nat) (t : Chunk) : Bool :=
  decide (1 ≤ t.n) && decide (t.n ≤ g.chunkMax k) && decide (t.cbits.length = t.n) && decide (t.csd.length = t.n) &&
    t.csd.all g.softOk

/-! Causes. -/

/-- The entry of a cause terminal for a receive channel: the worker halts, with the cause as its code (R197, R249, R284). -/
def State.haltRx (s : State) (k : Nat) (c : Cause) : State :=
  match s.rx[k]? with
  | some r => s.setRx k { r with st := .halt, haltCode := c }
  | none => s

/-- The entry of a cause terminal for a transmit channel: the channel dies, its queue and count stay (R222, R249). -/
def State.killTx (s : State) (c : Nat) : State :=
  match s.tx[c]? with
  | some t => s.setTx c { t with alive := false }
  | none => s

/-- The entry of a fatal cause (R223, R249, R283). -/
def State.setFatal (s : State) (c : Cause) : State := { s with fatal := true, fatalCode := c }

/-- TAKING A CAUSE: what the class of `c` does to the state (R249), then its trace event (R240, R263). `op` is the number
of the operation that raises it and `ch` the channel. There is no handler, vector or saved context. -/
def raiseCause (c : Cause) (op : Byte) (ch : Option Nat) (info : List Int) (s : State) : State :=
  let t : State :=
    match c.cls, ch with
    | .terminalRx, some k => s.haltRx k c
    | .terminalTx, some k => s.killTx k
    | .fatal, _ => s.setFatal c
    | _, _ => s
  t.traceEv op ch c info

/-- THE ONLY RETURN from a cause, reset (R254): every element of the spec's state at its value of R61 under the
configuration `g`, and `pend` in the backlog slot's bytes. The environment, the log and the script stay. -/
def resetBlock (g : Cfg) (pend : List Byte) (s : State) : State :=
  { s with
    fatal := false
    fatalCode := .none
    rx := (List.range g.nrx).map (resetRx g)
    tx := (List.range g.ntx).map (resetTx g)
    sch := resetSched g pend
    cfg := g }

/-! Enabling. -/

/-- No agent of the block steps while `fatal = 1` (R250), nor between SYS.RESET and SYS.CFGCHK (R281). -/
def State.running (s : State) : Bool := !s.fatal && !s.chkPending

/-- An operation of worker `k` that is enabled in the state `st` (R190): where it is not enabled the operation does not
happen and nothing changes (entry 9). -/
def workerStep (k : Nat) (st : RxSt) (s : State) (body : RxChan → Out) : Out :=
  match s.rx[k]? with
  | none => .refused (.noSuchChannel k)
  | some r => if s.running && r.st == st then body r else .next s

/-- An operation of the scheduler that is enabled in the phase `ph` (R52, R210); elsewhere as `workerStep`. -/
def schedStep (ph : Phase) (s : State) (body : Out) : Out :=
  if s.running && s.sch.ph == ph then body else .next s

end Sys2Proof.Machine
end

