-- ==== Sys2Proof/Machine/Arbiter.lean ====
section
/-! DEFINITION. Which operation comes next where the script names none. Each agent's own sequencing register names its
operation (10_state.md R40, R52; 43_rx_worker.md R190; 44_tx_scheduler.md R210); among the agents with an enabled operation
the choice is round-robin, one of the orders the spec leaves open (20_memory.md R85, R86; U11; entry 6). -/

namespace Sys2Proof.Machine

/-- The enabled operation of worker `k` (R190), or none where it waits or is halted. -/
def workerOp (s : State) (k : Nat) : Option Instr :=
  match s.rx[k]? with
  | none => none
  | some r =>
    match r.st with
    | .fill =>
      match s.rxOffered k with
      | none => none
      | some t => if t.eos then some (.rxHalt k) else some (.rxFill k)
    | .search => some (.rxSearch k)
    | .validate => some (.rxValidate k)
    | .extract => if r.verdict == .accept && !s.env.devwrReady then none else some (.rxExtract k)
    | .shift => some (.rxShift k)
    | .halt => none

/-- The scheduler's enabled operation (R210), the failure forms under their own names (R52), or none where it waits. -/
def schedOp (s : State) : Option Instr :=
  match s.sch.ph with
  | .wait => if s.eventPresent then some .txWait else none
  | .devrd =>
    if !s.sch.evDev then some .txDevrd
    else if s.sch.pendValid then some .txAbort
    else if s.env.devAvail then some .txDevrd else none
  | .assign => some .txAssign
  | .drain =>
    if s.sch.evWr.getD s.sch.ci false && ((s.tx[s.sch.ci]?).map TxChan.alive).getD false then
      match s.answer s.sch.ci with
      | .ok => some .txDrain
      | .err => some .txFail
      | .notTaken => none
    else some .txDrain

/-- Agent `a`: worker `a` below NRX, the scheduler at NRX (R266). -/
def agentOp (s : State) (a : Nat) : Option Instr := if a < s.cfg.nrx then workerOp s a else schedOp s

/-- The first of `fuel` agents from `a` on, cyclically, that has an enabled operation, and the agent after it. -/
def pickFrom (s : State) : Nat → Nat → Option (Nat × Instr)
  | 0, _ => none
  | fuel + 1, a =>
    match agentOp s (a % (s.cfg.nrx + 1)) with
    | some i => some (a % (s.cfg.nrx + 1) + 1, i)
    | none => pickFrom s fuel (a + 1)

/-- The operation that comes next and the agent to look at first after it: SYS.RESET while `rst` is asserted (R280),
SYS.CFGCHK when it is due (R281), nothing while `fatal = 1` (R250), else the round-robin choice. -/
def arbiter (s : State) : Option (Nat × Instr) :=
  if s.env.rst then some (0, .sysReset)
  else if s.chkPending then some (0, .sysCfgchk)
  else if s.fatal then none
  else pickFrom s (s.cfg.nrx + 1) s.turn

end Sys2Proof.Machine
end

