-- ==== Sys2Proof/Machine/Reserved.lean ====
section
/-! DEFINITION. The two reserved operations of 30_encoding.md R124: no semantics; a model that must name them refuses
them. -/

namespace Sys2Proof.Machine

/-- `LEN.VOTE` (R124, U4). -/
def execLenVote (_ : State) : Out := .refused (.reservedOperation "LEN.VOTE")

/-- `UW.HARD` (R124, U4). -/
def execUwHard (_ : State) : Out := .refused (.reservedOperation "UW.HARD")

end Sys2Proof.Machine
end

