-- ==== Sys2Proof/Machine/LengthCodec.lean ====
section
/-! DEFINITION. The Length Codec (40_length_codec.md): the pure functions R140 to R143 and the meanings of their
operations, which return their value in the latch `ret` (entry 5). -/

namespace Sys2Proof.Machine

/-- The XOR of the rows whose bit of `v`, counted from `i`, is set. -/
def xorRows : List Codeword → Nat → LengthWord → Codeword
  | [], _, _ => 0
  | r :: rs, i, v => (if v.getLsbD i then r else 0) ^^^ xorRows rs (i + 1) v

/-- `GolayEnc(v)` (R140): linear, so the XOR of the configured codewords of the bits set in `v` (entry 2). -/
def golayEnc (g : Cfg) (v : LengthWord) : Codeword := xorRows g.golay.toList 0 v

/-- The length word `zext_12(L)` (R107). -/
def lengthWordOf (len : Nat) : LengthWord := BitVec.ofNat 12 len

/-- `LenEnc(L)`: the direct and the masked codeword (R141). -/
def lenEnc (g : Cfg) (len : Nat) : Codeword × Codeword :=
  (golayEnc g (lengthWordOf len), golayEnc g (lengthWordOf len ^^^ lenMask))

/-- `LenIlv(A, B)`: `foot[2i] = A[i]`, `foot[2i+1] = B[i]` (R142). -/
def lenIlv (a b : Codeword) : Bits := (List.range 23).flatMap fun i => [a.getLsbD i, b.getLsbD i]

/-- The mask a parity selects (R143). -/
def parMask (par : Bool) : LengthWord := if par then lenMask else 0

/-- The score of the candidate `v` against 23 soft decisions (R143). -/
def lenScore (g : Cfg) (s : List Soft) (par : Bool) (v : Nat) : Int :=
  corr (codewordBits (golayEnc g (lengthWordOf v ^^^ parMask par))) s

/-- `LenDec(s, par)`: the least of the candidates `0 .. MTU` with the greatest score, and that score (R143). -/
def lenDec (g : Cfg) (s : List Soft) (par : Bool) : Nat × Int := scanMax (lenScore g s par) 0 mtu

/-- The footer of a packet of length `len` (R106, R107). -/
def footerOf (g : Cfg) (len : Nat) : Bits := lenIlv (lenEnc g len).1 (lenEnc g len).2

/-- `GOLAY.ENC` (R140). -/
def execGolayEnc (v : LengthWord) (s : State) : Out := .next (s.setRet (.codeword (golayEnc s.cfg v)))

/-- `LEN.ENC` (R141); its domain is `0 .. MTU` (R123). -/
def execLenEnc (len : Nat) (s : State) : Out :=
  if len ≤ mtu then .next (s.setRet (.pair (lenEnc s.cfg len).1 (lenEnc s.cfg len).2)) else .refused .outsideDomain

/-- `LEN.ILV` (R142). -/
def execLenIlv (a b : Codeword) (s : State) : Out := .next (s.setRet (.bits (lenIlv a b)))

/-- `LEN.DEC` (R143), on a sequence of 23 soft decisions. -/
def execLenDec (x : List Soft) (par : Bool) (s : State) : Out :=
  if x.length = 23 then .next (s.setRet (.lenConf (lenDec s.cfg x par).1 (lenDec s.cfg x par).2))
  else .refused .outsideDomain

end Sys2Proof.Machine
end

