-- ==== Sys2Proof/Machine/FrameCodec.lean ====
section
/-! DEFINITION. The Frame Codec (42_frame_codec.md): the pure functions R170 to R179 and the meanings of their
operations. -/

namespace Sys2Proof.Machine

/-- `Scr(b)`: the byte XOR 0x55; its own inverse (R170). -/
def scr (b : Byte) : Byte := b ^^^ scrMask

/-- `Ser(p)`: the bits of every byte, least significant first, bytes in order (R171). -/
def ser (p : Packet) : Bits := p.flatMap byteBits

/-- `Deser(bits)`: every eight bits make a byte, bit `j` weighing `2^j` (R172). -/
def deser : Bits → Packet
  | b0 :: b1 :: b2 :: b3 :: b4 :: b5 :: b6 :: b7 :: t =>
    BitVec.ofNat 8 (bitsNat [b0, b1, b2, b3, b4, b5, b6, b7]) :: deser t
  | _ => []

/-- `Filler(m)`: `m` bits, bit `j` is `j mod 2` (R174). -/
def filler (m : Nat) : Bits := fillerBits m

/-- The payload field of a packet: every byte scrambled, then serialised (R104). -/
def payloadBits (p : Packet) : Bits := ser (p.map scr)

/-- `FrmEnc(p, lead)`: the unique word if `lead`, the payload, the footer, the unique word (R177). -/
def frmEnc (g : Cfg) (p : Packet) (lead : Bool) : Bits :=
  (if lead then g.uwBits else []) ++ payloadBits p ++ footerOf g p.length ++ g.uwBits

/-- The first six lines of `FrmDec` (R179), which `RX.VALIDATE` performs (R194): both lengths and confidences decoded from
the 46 soft decisions before the candidate offset. -/
def footerDecode (g : Cfg) (foot : List Soft) : (Nat × Int) × (Nat × Int) :=
  (lenDec g (evens foot) false, lenDec g (odds foot) true)

/-- The first payload position of a frame of length `len` whose trailing unique word starts at `o` (R179). -/
def payloadStart (o len : Nat) : Nat := o - footerBits - 8 * len

/-- The packet in its serialised and scrambled payload bits (the last lines of `FrmDec`, R179). -/
def unpack (raw : Bits) : Packet := (deser raw).map scr

/-- `FRM.DEC` (R179) goes on with the tagged result of R178 and the lengths and confidences alongside, or faults where a
position falls outside the window (R81). -/
def frmDecThen (g : Cfg) (bits : Bits) (sd : List Soft) (o : Nat) (go : Ret → Out) : Out :=
  if o < footerBits then .fault (.outOfRange .operand o footerBits sd.length) else
  readOr .operand sd (o - footerBits) footerBits fun foot =>
    let d := footerDecode g foot
    let la := d.1.1
    let lb := d.2.1
    let answer := fun r => go (.frame r la d.1.2 lb d.2.2)
    if la ≠ lb then answer (.rejected .lenMismatch la lb)
    else if mtu < la then answer (.rejected .lenRange la lb)
    else if la = 0 then answer .filler
    else if o < footerBits + 8 * la then .fault (.outOfRange .operand o (8 * la) bits.length)
    else readOr .operand bits (payloadStart o la) (8 * la) fun raw => answer (.accepted (unpack raw))

/-- `SCR` (R170). -/
def execScr (b : Byte) (s : State) : Out := .next (s.setRet (.byte (scr b)))

/-- `SER` (R171). -/
def execSer (p : Packet) (s : State) : Out := .next (s.setRet (.bits (ser p)))

/-- `DESER` (R172), on a whole number of bytes. -/
def execDeser (bits : Bits) (s : State) : Out :=
  if bits.length % 8 = 0 then .next (s.setRet (.packet (deser bits))) else .refused .outsideDomain

/-- `FILLER` (R174). -/
def execFiller (m : Nat) (s : State) : Out := .next (s.setRet (.bits (filler m)))

/-- `FRM.ENC` (R177); its domain is packets of `0 .. MTU` bytes (R123). -/
def execFrmEnc (p : Packet) (lead : Bool) (s : State) : Out :=
  if p.length ≤ mtu then .next (s.setRet (.bits (frmEnc s.cfg p lead))) else .refused .outsideDomain

/-- `FRM.DEC` (R179). -/
def execFrmDec (bits : Bits) (sd : List Soft) (o : Nat) (s : State) : Out :=
  frmDecThen s.cfg bits sd o fun v => .next (s.setRet v)

end Sys2Proof.Machine
end

