-- ==== Sys2Proof/Machine/UwSync.lean ====
section
/-! DEFINITION. The Unique-Word Synchronizer (41_uw_sync.md): the pure functions R160 and R161 and the meanings of their
operations. -/

namespace Sys2Proof.Machine

/-- `UwCorr(sd, o)`: the sum over `i < 48` of `soft(UW[i], sd[o + i])` (R160). -/
def uwCorr (g : Cfg) (sd : List Soft) (o : Nat) : Int := corr g.uwBits (sd.drop o)

/-- `UwSearch(sd, lo, hi)`: the least offset of `lo .. hi` with the greatest score, and that score (R161). -/
def uwSearch (g : Cfg) (sd : List Soft) (lo hi : Nat) : Nat × Int := scanMax (uwCorr g sd) lo (hi - lo)

/-- `UW.CORR` (R160), for an offset with `o + 48 <= len(sd)` (R81). -/
def execUwCorr (sd : List Soft) (o : Nat) (s : State) : Out :=
  if o + uwLen ≤ sd.length then .next (s.setRet (.score (uwCorr s.cfg sd o)))
  else .fault (.outOfRange .operand o uwLen sd.length)

/-- `UW.SEARCH` (R161), for `lo <= hi` and `hi + 48 <= len(sd)` (R81). -/
def execUwSearch (sd : List Soft) (lo hi : Nat) (s : State) : Out :=
  if hi < lo then .refused .outsideDomain
  else if hi + uwLen ≤ sd.length then
    .next (s.setRet (.offset (uwSearch s.cfg sd lo hi).1 (uwSearch s.cfg sd lo hi).2))
  else .fault (.outOfRange .operand hi uwLen sd.length)

end Sys2Proof.Machine
end

