-- ==== Sys2Proof/Machine/RxWorker.lean ====
section
/-! DEFINITION. The Receive Channel Worker (43_rx_worker.md): the meanings of `RX.FILL` to `RX.HALT`. -/

namespace Sys2Proof.Machine

/-- The worker's state once a legal chunk has been written into its window (R191). -/
def filledRx (r : RxChan) (n : Nat) (bits : Bits) (sd : List Soft) : RxChan :=
  { r with bits := bits, sd := sd, n := n, wr := base + n, st := .search }

/-- `RX.FILL` (R191): enabled in FILL when the port offers a transfer with `eos = 0`; while it offers nothing the worker
waits. A chunk that breaks the port's contract is refused (U6). -/
def execRxFill (k : Nat) (s : State) : Out :=
  workerStep k .fill s fun r =>
    match s.rxOffered k with
    | none => .next s
    | some t =>
      if t.eos then .next s
      else if !chunkOk s.cfg k t then .refused (.chunkContract k t.n)
      else writeOr .rxbits r.bits base t.cbits fun bits =>
        writeOr .rxsd r.sd base t.csd fun sd =>
          .next ((s.takeRxin k t).setRx k (filledRx r t.n bits sd))

/-- The offsets `RX.SEARCH` tries (R192): first and last. -/
def searchLo : Nat := base - 47

/-- The last offset `RX.SEARCH` tries after a chunk of `n` (R192). -/
def searchHi (n : Nat) : Nat := base + n - uwLen

/-- The worker's state once a candidate has been found (R192). -/
def searchedRx (g : Cfg) (r : RxChan) : RxChan :=
  let f := uwSearch g r.sd searchLo (searchHi r.n)
  { r with cand := f.1, candScore := f.2, st := .validate }

/-- `RX.SEARCH` (R192): it reads the positions `BASE-47 .. BASE+n-1` (R82), at least one unique word. -/
def execRxSearch (k : Nat) (s : State) : Out :=
  workerStep k .search s fun r =>
    readOr .rxsd r.sd searchLo (47 + max r.n 1) fun _ => .next (s.setRx k (searchedRx s.cfg r))

/-- The worker's state once the footer `foot` has been decoded (R194). -/
def validatedRx (g : Cfg) (r : RxChan) (foot : List Soft) : RxChan :=
  let d := footerDecode g foot
  { r with
    lenA := d.1.1, confA := d.1.2, lenB := d.2.1, confB := d.2.2
    verdict := verdictOf d.1.1 d.2.1
    st := .extract }

/-- `RX.VALIDATE` (R194): it reads the 46 soft decisions before the candidate (R82, R112). -/
def execRxValidate (k : Nat) (s : State) : Out :=
  workerStep k .validate s fun r =>
    if r.cand < footerBits then .fault (.outOfRange .rxsd r.cand footerBits r.sd.length)
    else readOr .rxsd r.sd (r.cand - footerBits) footerBits fun foot =>
      .next (s.setRx k (validatedRx s.cfg r foot))

/-- The worker's state after its candidate has been dealt with (R195). -/
def extractedRx (r : RxChan) : RxChan := { r with st := .shift }

/-- `RX.EXTRACT` (R195): an accepted packet goes to the device, one whole packet in this one step (R86), and the worker
waits while the device write port is not ready; a rejected candidate is only traced; filler does nothing. -/
def execRxExtract (k : Nat) (s : State) : Out :=
  workerStep k .extract s fun r =>
    match r.verdict with
    | .accept =>
      if !s.env.devwrReady then .next s
      else if r.cand < footerBits + 8 * r.lenA then .fault (.outOfRange .rxbits r.cand (8 * r.lenA) r.bits.length)
      else readOr .rxbits r.bits (payloadStart r.cand r.lenA) (8 * r.lenA) fun raw =>
        .next (raiseCause .accepted 0x33 (some k) [(r.lenA : Int), r.candScore, r.confA, r.confB]
          ((s.emitDevwr (unpack raw)).setRx k (extractedRx r)))
    | .reject =>
      .next (raiseCause .lenMismatch 0x33 (some k) [(r.lenA : Int), (r.lenB : Int), r.candScore]
        (s.setRx k (extractedRx r)))
    | .filler => .next (s.setRx k (extractedRx r))
    | .none => .next (s.setRx k (extractedRx r))

/-- The worker's state once its window has been shifted (R196). -/
def shiftedRx (r : RxChan) (bits : Bits) (sd : List Soft) : RxChan :=
  { r with bits := bits, sd := sd, n := 0, wr := base, verdict := .none, st := .fill }

/-- `RX.SHIFT` (R196): the whole window moves down by `n`, zeros come in at the end. -/
def execRxShift (k : Nat) (s : State) : Out :=
  workerStep k .shift s fun r =>
    shiftOr .rxbits r.bits (List.replicate r.n false) fun bits =>
      shiftOr .rxsd r.sd (List.replicate r.n 0) fun sd => .next (s.setRx k (shiftedRx r bits sd))

/-- `RX.HALT` (R197): enabled in FILL when the port offers the end of stream, whose bits are discarded; the worker takes
the cause RX_EOS. -/
def execRxHalt (k : Nat) (s : State) : Out :=
  workerStep k .fill s fun _ =>
    match s.rxOffered k with
    | none => .next s
    | some t => if t.eos then .next (raiseCause .rxEos 0x35 (some k) [] (s.takeRxin k t)) else .next s

end Sys2Proof.Machine
end

