-- ==== Sys2Proof/Machine/System.lean ====
section
/-! DEFINITION. Reset and start-up (70_reset_and_hazards.md): the meanings of `SYS.RESET` and `SYS.CFGCHK`. -/

namespace Sys2Proof.Machine

/-- The bytes SYS.RESET leaves in the backlog slot: FREE VALUES (R61, R280, U3; entry 13). -/
def freePend (ctr : Nat) : List Byte := (List.range mtu).map fun i => Config.freeByte (ctr + i)

/-- `SYS.RESET` (R280): enabled whenever `rst` is asserted, `fatal = 1` included. The configuration presented is the one in
force from here on (R280 b; entry 11), and SYS.CFGCHK is due (R281; entry 10). Performed again before the check it resets
again, and one check follows all of them (entry 30). -/
def execSysReset (s : State) : Out :=
  if s.env.rst then
    .next { resetBlock s.env.cfgIn (freePend s.freeCtr) s with
      chkPending := true
      freeCtr := s.freeCtr + mtu }
  else .next s

/-- A start-up input of channel `c`; an absent one reads 0 (R282; entry 14). -/
def startupLevel (xs : List Bool) (c : Nat) : Bool := xs.getD c false

/-- The first start-up test that fails, in the order of R283, by its number there. -/
def cfgFailure (s : State) : Option Int :=
  if !s.env.argsOk then some 1
  else if !s.cfg.valid then some 2
  else if (List.range s.cfg.ntx).any (fun c => !startupLevel s.env.txSinkOk c) then some 3
  else if !s.env.devOk then some 4
  else none

/-- The entry of RX_OPEN for worker `k` if its source did not open (R284). -/
def openSource (s : State) (k : Nat) : State :=
  if startupLevel s.env.rxSrcOk k then s else raiseCause .rxOpen 0x51 (some k) [] s

/-- Every receive source is looked at, in ascending order (R283). -/
def openSources (s : State) : State := (List.range s.cfg.nrx).foldl openSource s

/-- `SYS.CFGCHK` (R283): performed exactly once after SYS.RESET, once `rst` is released (R281, R286; entry 30): the first test
that fails takes the fatal cause CFG, and nothing else of the step is done; if none fails, every receive source that did
not open halts its worker. -/
def execSysCfgchk (s : State) : Out :=
  if s.chkPending && !s.env.rst then
    let t : State := { s with chkPending := false }
    match cfgFailure s with
    | some i => .next (raiseCause .cfg 0x51 none [i] t)
    | none => .next (openSources t)
  else .next s

end Sys2Proof.Machine
end

