-- ==== Sys2Proof/Machine/TxScheduler.lean ====
section
/-! DEFINITION. The Transmit Scheduler (44_tx_scheduler.md): the meanings of `TX.WAIT` to `TX.ABORT`. -/

namespace Sys2Proof.Machine

/-- The scheduler once it has latched the events present (R214). -/
def latchedSch (s : State) : Sched :=
  { s.sch with
    evDev := s.sch.watchDev && s.env.devAvail
    evWr := readyFlags s.tx s.env.txRdy
    ph := .devrd }

/-- `TX.WAIT` (R214): enabled in WAIT when a watched event is present; otherwise the scheduler waits. -/
def execTxWait (s : State) : Out :=
  schedStep .wait s (if s.eventPresent then .next (s.setSch (latchedSch s)) else .next s)

/-- The effect of `TX.ABORT` (R223): the fatal cause ASSERT_BACKLOG is taken; the phase and the slot stay. -/
def abortEffect (s : State) : State := raiseCause .assertBacklog 0x45 none [] s

/-- The scheduler once the packet `p` stands in the slot, over the first bytes of `data` (R215). -/
def slottedSch (q : Sched) (p : Packet) (data : List Byte) : Sched :=
  { q with pendData := data, pendLen := p.length, pendValid := true, ph := .assign }

/-- `TX.DEVRD` (R215): with no device event only the phase changes; with an occupied slot the cause ASSERT_BACKLOG is taken
(the failure form, R223); otherwise one packet is taken, and the scheduler waits in this phase if it is gone (R215 d). A
packet longer than MTU is refused (U5). -/
def execTxDevrd (s : State) : Out :=
  schedStep .devrd s
    (if !s.sch.evDev then .next (s.setSch { s.sch with ph := .assign })
     else if s.sch.pendValid then .next (abortEffect s)
     else match s.env.devPkts with
       | [] => .next s
       | p :: _ =>
         if mtu < p.length then .refused (.packetTooLong p.length)
         else writeOr .pend s.sch.pendData 0 p fun data => .next ((s.takeDevrd p).setSch (slottedSch s.sch p data)))

/-- The phase after `TX.ASSIGN` (R216): DRAIN, or WAIT where there is no transmit channel. -/
def phaseAfterAssign (s : State) : Phase := if s.cfg.ntx = 0 then .wait else .drain

/-- The scheduler after `TX.ASSIGN` with the slot's occupancy `valid` (R216). -/
def assignedSch (s : State) (valid : Bool) : Sched :=
  { s.sch with pendValid := valid, ci := 0, ph := phaseAfterAssign s }

/-- `TX.ASSIGN` (R216): the packet in the slot is framed into the queue of the least free channel, without its leading
unique word where real data is still queued (R176); where no channel is free it stays in the slot (BUSY). -/
def execTxAssign (s : State) : Out :=
  schedStep .assign s
    (if !s.sch.pendValid then .next (s.setSch (assignedSch s false))
     else match s.tx.findIdx? TxChan.isFree with
       | none =>
         .next (raiseCause .busy 0x42 none [(s.sch.pendLen : Int)] (s.setSch (assignedSch s true)))
       | some c =>
         match s.tx[c]? with
         | none => .fault (.outOfRange .txq c 1 s.tx.length)
         | some t =>
           readOr .pend s.sch.pendData 0 s.sch.pendLen fun pkt =>
             let f := frmEnc s.cfg pkt t.needUw
             writeOr .txq t.q t.real f fun q =>
               .next (raiseCause .queued 0x42 (some c) [(s.sch.pendLen : Int), (t.real : Int), (f.length : Int)]
                 ((s.setTx c { t with q := q, real := t.real + f.length }).setSch (assignedSch s false))))

/-- The scheduler after it has looked at the channel `sch.ci` (R218, R222). -/
def advancedSch (s : State) : Sched :=
  { s.sch with ci := s.sch.ci + 1, ph := if s.sch.ci + 1 = s.cfg.ntx then .wait else .drain }

/-- The transmit channel once one quantum has been emitted and its queue `q` shifted and refilled (R218). -/
def drainedTx (t : TxChan) (nb : Nat) (q : Bits) : TxChan := { t with q := q, real := t.real - nb }

/-- The effect of `TX.FAIL` (R222): the quantum was emitted and answered `err`, the cause TX_SINK is taken, the queue and
the count stay, the scheduler goes on to the next channel. -/
def failEffect (c : Nat) (t : TxChan) (quantum : Bits) (s : State) : State :=
  (raiseCause .txSink 0x44 (some c) [(t.real : Int)] (s.emitTxout c quantum .err)).setSch (advancedSch s)

/-- Go on with the channel `sch.ci` if it is to be drained in this iteration (R218), or else with the case that it is not;
a channel number outside `tx` faults (R62: it cannot happen). -/
def drainTarget (s : State) (skip : Out) (go : TxChan → Out) : Out :=
  match s.tx[s.sch.ci]? with
  | none => .fault (.outOfRange .txq s.sch.ci 1 s.tx.length)
  | some t => if s.sch.evWr.getD s.sch.ci false && t.alive then go t else skip

/-- `TX.DRAIN` (R218): one quantum of the channel `sch.ci` is emitted if its readiness was latched; answered `ok`, the
queue shifts by a quantum and filler comes in at its tail; answered `err`, the cause TX_SINK is taken (the failure form,
R222); not taken, the scheduler waits (U18). -/
def execTxDrain (s : State) : Out :=
  schedStep .drain s
    (drainTarget s (.next (s.setSch (advancedSch s))) fun t =>
      let c := s.sch.ci
      let nb := s.cfg.quantum c
      readOr .txq t.q 0 nb fun quantum =>
        match s.answer c with
        | .notTaken => .next s
        | .err => .next (failEffect c t quantum s)
        | .ok =>
          shiftOr .txq t.q (filler nb) fun q =>
            .next (((s.emitTxout c quantum .ok).setTx c (drainedTx t nb q)).setSch (advancedSch s)))

/-- `TX.FAIL` (R222), as a move of its own: it happens where the quantum of `sch.ci` is answered `err`, and nowhere else
(entry 17). -/
def execTxFail (s : State) : Out :=
  schedStep .drain s
    (drainTarget s (.next s) fun t =>
      readOr .txq t.q 0 (s.cfg.quantum s.sch.ci) fun quantum =>
        match s.answer s.sch.ci with
        | .err => .next (failEffect s.sch.ci t quantum s)
        | .ok => .next s
        | .notTaken => .next s)

/-- `TX.ABORT` (R223), as a move of its own: it happens where a device event was latched and the slot is occupied, and
nowhere else (entry 17). -/
def execTxAbort (s : State) : Out :=
  schedStep .devrd s (if s.sch.evDev && s.sch.pendValid then .next (abortEffect s) else .next s)

end Sys2Proof.Machine
end

