-- ==== Sys2Proof/Machine/WireFormat.lean ====
section
/-! DEFINITION. The wire and word patterns of the opcode table (30_encoding.md R100 to R109, R140). They are no operations
of R120; as instructions of the model each assembles its pattern from its operand and returns it in the latch `ret`
(entry 4). -/

namespace Sys2Proof.Machine

/-- The pattern `WORD.CODEWORD` of a codeword: bits 22..11 and bits 10..0. -/
def codewordSplit (cw : Codeword) : LengthWord × BitVec 11 := (cw.extractLsb' 11 12, cw.extractLsb' 0 11)

/-- `WIRE.UW`: the 48 bits of the unique word, `UW[0]` first (R102). -/
def execWireUw (s : State) : Out := .next (s.setRet (.bits s.cfg.uwBits))

/-- `WIRE.PAYLOAD_BYTE`: the bits of the byte XOR 0x55, bit 0 first (R104). -/
def execWirePayloadByte (b : Byte) (s : State) : Out := .next (s.setRet (.bits (payloadBits [b])))

/-- `WIRE.FOOTER`: the 46 bits of the footer of a length (R106, R107). -/
def execWireFooter (len : Nat) (s : State) : Out :=
  if len ≤ mtu then .next (s.setRet (.bits (footerOf s.cfg len))) else .refused .outsideDomain

/-- `WIRE.FILLER`: the two-bit unit of idle filler (R109). -/
def execWireFiller (s : State) : Out := .next (s.setRet (.bits (filler 2)))

/-- `WIRE.FRAME.L1`: the frame of a packet of one byte (R100). -/
def execWireFrameL1 (b : Byte) (s : State) : Out := .next (s.setRet (.bits (frmEnc s.cfg [b] true)))

/-- `WIRE.FRAME_NOLEAD.L1`: the same with its leading unique word omitted (R101). -/
def execWireFrameNoleadL1 (b : Byte) (s : State) : Out := .next (s.setRet (.bits (frmEnc s.cfg [b] false)))

/-- `WORD.LENGTH`: the length word of a packet length (R107). -/
def execWordLength (len : Nat) (s : State) : Out :=
  if len ≤ mtu then .next (s.setRet (.lengthWord (lengthWordOf len))) else .refused .outsideDomain

/-- `WORD.CODEWORD`: the codeword of a value, split as the pattern splits it; the upper part is the value itself under the
default `GolayEnc` (R140). -/
def execWordCodeword (d : LengthWord) (s : State) : Out :=
  .next (s.setRet (.codewordFields (codewordSplit (golayEnc s.cfg d)).1 (codewordSplit (golayEnc s.cfg d)).2))

end Sys2Proof.Machine
end

