-- ==== Sys2Proof/Machine/Dispatch.lean ====
section
/-! DEFINITION. The meaning of every instruction, one arm per constructor. -/

namespace Sys2Proof.Machine

def exec (i : Instr) (s : State) : Host.Outcome State Fault Refusal :=
  match i with
  | .golayEnc v => Sys2Proof.Machine.execGolayEnc v s
  | .lenEnc len => Sys2Proof.Machine.execLenEnc len s
  | .lenIlv a b => Sys2Proof.Machine.execLenIlv a b s
  | .lenDec x par => Sys2Proof.Machine.execLenDec x par s
  | .uwCorr sd o => Sys2Proof.Machine.execUwCorr sd o s
  | .uwSearch sd lo hi => Sys2Proof.Machine.execUwSearch sd lo hi s
  | .scr b => Sys2Proof.Machine.execScr b s
  | .ser p => Sys2Proof.Machine.execSer p s
  | .deser bits => Sys2Proof.Machine.execDeser bits s
  | .frmEnc p lead => Sys2Proof.Machine.execFrmEnc p lead s
  | .frmDec bits sd o => Sys2Proof.Machine.execFrmDec bits sd o s
  | .filler m => Sys2Proof.Machine.execFiller m s
  | .rxFill k => Sys2Proof.Machine.execRxFill k s
  | .rxSearch k => Sys2Proof.Machine.execRxSearch k s
  | .rxValidate k => Sys2Proof.Machine.execRxValidate k s
  | .rxExtract k => Sys2Proof.Machine.execRxExtract k s
  | .rxShift k => Sys2Proof.Machine.execRxShift k s
  | .rxHalt k => Sys2Proof.Machine.execRxHalt k s
  | .txWait => Sys2Proof.Machine.execTxWait s
  | .txDevrd => Sys2Proof.Machine.execTxDevrd s
  | .txAssign => Sys2Proof.Machine.execTxAssign s
  | .txDrain => Sys2Proof.Machine.execTxDrain s
  | .txFail => Sys2Proof.Machine.execTxFail s
  | .txAbort => Sys2Proof.Machine.execTxAbort s
  | .sysReset => Sys2Proof.Machine.execSysReset s
  | .sysCfgchk => Sys2Proof.Machine.execSysCfgchk s
  | .lenVote => Sys2Proof.Machine.execLenVote s
  | .uwHard => Sys2Proof.Machine.execUwHard s
  | .wireUw => Sys2Proof.Machine.execWireUw s
  | .wirePayloadByte b => Sys2Proof.Machine.execWirePayloadByte b s
  | .wireFooter len => Sys2Proof.Machine.execWireFooter len s
  | .wireFiller => Sys2Proof.Machine.execWireFiller s
  | .wireFrameL1 b => Sys2Proof.Machine.execWireFrameL1 b s
  | .wireFrameNoleadL1 b => Sys2Proof.Machine.execWireFrameNoleadL1 b s
  | .wordLength len => Sys2Proof.Machine.execWordLength len s
  | .wordCodeword d => Sys2Proof.Machine.execWordCodeword d s

end Sys2Proof.Machine
end

