-- ==== Sys2Proof/Machine/Environment.lean ====
section
/-! DEFINITION. What the environment does between two operations (60_exceptions.md R265, 30_encoding.md R126): each event
changes what the ports show and nothing of the block's state (entry 7). -/

namespace Sys2Proof.Machine

/-- Replace what the environment shows. -/
def State.setEnv (s : State) (e : Env) : State := { s with env := e }

/-- The state between the release of `rst` and SYS.CFGCHK, in which the start-up inputs are held steady (R282). -/
def State.checkDue (s : State) : Bool := s.chkPending && !s.env.rst

/-- One event of the environment. Points the spec leaves open are settled here: a transfer may be offered on a chunk port
after its end of stream, and stays there untaken, as U7 has it where R265 has it refused (entry 27); `rst` may fall again
before any SYS.RESET has happened (entry 28); a chunk or packet that breaks its port's contract is accepted as an offer and
refused by the operation that would take it, so that one never taken is never refused (entry 29). -/
def applyEnv (e : EnvEvent) (s : State) : Out :=
  match e with
  | .devPkt p => .next (s.setEnv { s.env with devPkts := s.env.devPkts ++ [p] })
  | .devWithdraw => .next (s.setEnv { s.env with devPkts := [] })
  | .txReady c =>
    if c < s.cfg.ntx then .next (s.setEnv { s.env with txRdy := setPad false true s.env.txRdy c })
    else .refused (.noSuchChannel c)
  | .txAnswer c a =>
    if c < s.cfg.ntx then .next (s.setEnv { s.env with txAns := setPad .ok a s.env.txAns c })
    else .refused (.noSuchChannel c)
  | .rxOffer k t =>
    if k < s.cfg.nrx then
      .next (s.setEnv { s.env with rxin := setPad [] (s.env.rxin.getD k [] ++ [t]) s.env.rxin k })
    else .refused (.noSuchChannel k)
  | .devwr ready hold => .next (s.setEnv { s.env with devwrReady := ready, devwrHold := hold })
  | .rst level => .next (s.setEnv { s.env with rst := level })
  | .startup argsOk txSinkOk devOk rxSrcOk =>
    if s.checkDue then .refused .startupMoved
    else .next (s.setEnv { s.env with argsOk := argsOk, txSinkOk := txSinkOk, devOk := devOk, rxSrcOk := rxSrcOk })
  | .cfg g =>
    if s.env.rst then .next (s.setEnv { s.env with cfgIn := g }) else .refused .cfgWithoutReset

end Sys2Proof.Machine
end

