-- ==== Sys2Proof/Machine/Step.lean ====
section
/-! DEFINITION. One step of the machine: the next move of the script, an operation or an event of the environment; where
the script is empty, the operation the arbiter names; where no agent has one, every agent waits and nothing changes
(70_reset_and_hazards.md R289). -/

namespace Sys2Proof.Machine

/-- Make one move of the script, in a state whose script already starts after it. -/
def makeMove (m : Move) (s : State) : Host.Outcome State Fault Refusal :=
  match m with
  | .env e => applyEnv e s
  | .op slot =>
    match fetchWord slot with
    | .ok i => exec i s
    | .error e => .refused (.undecodable e)

/-- One step. -/
def step (s : State) : Host.Outcome State Fault Refusal :=
  match s.script with
  | m :: rest => makeMove m { s with script := rest }
  | [] =>
    match arbiter s with
    | some (turn, i) => exec i { s with turn := turn }
    | none => .next s

/-- `s` with the word `w` of `nbits` bits as the next move of its script; the bytes above it read as 0 (`fetchWord`). -/
def State.withFetchWord (s : State) (nbits w : Nat) : State :=
  { s with script := .op (tableWordBytes nbits w) :: s.script }

end Sys2Proof.Machine
end

