-- ==== Sys2Proof/Safety.lean ====
section
/-! DEFINITION. What claims speak of: the invariant of 10_state.md R62, the canonical form of the buffers (R70), the
properties G1 to G3 of an encoder (R140), scores and maxima in the spec's own terms (R143, R160), and the frames of the
operations. -/

namespace Sys2Proof.Machine

/-! Scores in the spec's own terms. -/

/-- `sum over i in 0..n-1 of soft(b(i), s(i))` (R143, R160). -/
def softSum (n : Nat) (b : Nat → Bool) (s : Nat → Int) : Int := ((List.range n).map fun i => soft (b i) (s i)).sum

/-- `score(v)` of R143. -/
def lenScoreSpec (g : Cfg) (s : List Soft) (par : Bool) (v : Nat) : Int :=
  softSum 23 (fun i => (golayEnc g (BitVec.ofNat 12 v ^^^ (if par then 0xFFF else 0))).getLsbD i) (fun i => s.getD i 0)

/-- The sum of R160. -/
def uwCorrSpec (g : Cfg) (sd : List Soft) (o : Nat) : Int :=
  softSum 48 (fun i => g.uw.getLsbD i) (fun i => sd.getD (o + i) 0)

/-- `o` is the least position of `lo .. hi` with the greatest score, and `x` is that score (R143 a, R161 a). -/
def LeastMax (score : Nat → Int) (lo hi o : Nat) (x : Int) : Prop :=
  lo ≤ o ∧ o ≤ hi ∧ x = score o ∧ (∀ p, lo ≤ p → p ≤ hi → score p ≤ x) ∧ ∀ p, lo ≤ p → p < o → score p < x

/-- The soft values of a bit sequence received at one amplitude `a` (95_test_vectors.md, `hard(a)`). -/
def hardSoft (a : Int) (bits : Bits) : List Soft := bits.map fun b => if b then a else -a

/-- The soft values of codeword A before a unique word at `o` (R112). -/
def footA (sd : List Soft) (o : Nat) : List Soft := (List.range 23).map fun i => sd.getD (o - 46 + 2 * i) 0

/-- The soft values of codeword B before a unique word at `o` (R112). -/
def footB (sd : List Soft) (o : Nat) : List Soft := (List.range 23).map fun i => sd.getD (o - 46 + 2 * i + 1) 0

/-- `pkt` is the payload of length `len` before a unique word at `o`: bit `j` of byte `m` is the hard bit at
`o - 46 - 8 len + 8 m + j`, XORed with bit `j` of 0x55 (R112). -/
def IsPayload (bits : Bits) (o len : Nat) (pkt : Packet) : Prop :=
  pkt.length = len ∧ ∀ m j, m < len → j < 8 →
    (pkt.getD m 0).getLsbD j = (bits.getD (o - 46 - 8 * len + 8 * m + j) false ^^ (0x55 : Byte).getLsbD j)

/-! Properties of an encoder (R140). -/

/-- The number of bit positions in which two codewords differ. -/
def codewordDist (a b : Codeword) : Nat := ((List.range 23).filter fun i => (a ^^^ b).getLsbD i).length

/-- G1: linear. -/
def G1 (enc : LengthWord → Codeword) : Prop := enc 0 = 0 ∧ ∀ a b, enc (a ^^^ b) = enc a ^^^ enc b

/-- G2: different values differ in at least 7 bit positions. -/
def G2 (enc : LengthWord → Codeword) : Prop := ∀ a b, a ≠ b → 7 ≤ codewordDist (enc a) (enc b)

/-- G3: the value 0xFFF goes to all ones. -/
def G3 (enc : LengthWord → Codeword) : Prop := enc 0xFFF = 0x7FFFFF

/-! The invariant. -/

/-- The canonical form of the buffers: every list has exactly the length of its index space (R70), and every soft decision
fits `SD_W` bits (R43). -/
def Memory.wf (s : State) : Bool :=
  decide (s.rx.length = s.cfg.nrx) && decide (s.tx.length = s.cfg.ntx) &&
    (List.range s.rx.length).all (fun k => (s.rx[k]?).all fun r =>
      decide (r.bits.length = s.cfg.wRx k) && decide (r.sd.length = s.cfg.wRx k) && r.sd.all s.cfg.softOk) &&
    (List.range s.tx.length).all (fun c => (s.tx[c]?).all fun t => decide (t.q.length = s.cfg.wTx c)) &&
    decide (s.sch.pendData.length = mtu)

/-- A receive channel in the states a run reaches: R62 (a) and (b), the zeros beyond the chunk (R196 b, U10), the ranges of
R44 and R46, and what R47 and R48 say of `verdict` and `halt_code`. -/
structure RxInv (g : Cfg) (k : Nat) (r : RxChan) : Prop where
  wr_eq      : r.wr = base + r.n
  n_zero     : r.n = 0 ↔ (r.st = .fill ∨ r.st = .halt)
  n_le       : r.n ≤ g.chunkMax k
  cand_range : r.st = .validate ∨ r.st = .extract ∨ r.st = .shift → base - 47 ≤ r.cand ∧ r.cand + 48 ≤ base + r.n
  bits_zero  : r.bits.drop (base + r.n) = List.replicate (g.chunkMax k - r.n) false
  sd_zero    : r.sd.drop (base + r.n) = List.replicate (g.chunkMax k - r.n) 0
  lens_le    : r.lenA ≤ mtu ∧ r.lenB ≤ mtu
  verdict_eq : r.st = .extract ∨ r.st = .shift → r.verdict = verdictOf r.lenA r.lenB
  verdict_no : r.st ≠ .extract → r.st ≠ .shift → r.verdict = .none
  halted     : r.st = .halt ↔ (r.haltCode = .rxEos ∨ r.haltCode = .rxOpen)
  no_code    : r.st ≠ .halt → r.haltCode = .none

/-- A transmit channel in the states a run reaches: R62 (c), and the phase of the filler beyond the real data for an even
quantum (R62 d, R219). -/
structure TxInv (g : Cfg) (c : Nat) (t : TxChan) : Prop where
  real_le : t.real ≤ frameMaxBits
  filler  : g.quantum c % 2 = 0 → ∀ i, t.real ≤ i → i < g.wTx c → t.q[i]? = some (i % 2 == 1)

/-- The scheduler in the states a run reaches: R62 (e) and (f), the range of R54, one event bit per channel (R53). -/
structure SchInv (g : Cfg) (q : Sched) : Prop where
  ev_length : q.evWr.length = g.ntx
  pend_le   : q.pendLen ≤ mtu
  ci_le     : q.ci ≤ g.ntx
  ci_drain  : q.ph = .drain → q.ci < g.ntx
  ev_dev    : q.ph = .devrd → q.evDev = true → q.pendValid = false

/-- The invariant of the machine (R62): the buffers are in canonical form, every channel and the scheduler are as above,
`fatal_code` says whether and why `fatal` is set and is never ASSERT_BACKLOG (R31, R62 f), and between SYS.RESET and
SYS.CFGCHK every worker stands at FILL (R280, R281). -/
structure StateInv (s : State) : Prop where
  mem   : Memory.wf s = true
  rx    : ∀ k r, s.rx[k]? = some r → RxInv s.cfg k r
  tx    : ∀ c t, s.tx[c]? = some t → TxInv s.cfg c t
  sch   : SchInv s.cfg s.sch
  fatal : s.fatalCode = if s.fatal then .cfg else .none
  check : s.chkPending = true → ∀ r ∈ s.rx, r.st = .fill

/-! Frames. -/

/-- Nothing of the block changed but receive channel `k`; what the environment shows and the log are not spoken of. -/
def OnlyRx (k : Nat) (s t : State) : Prop :=
  t.rx.length = s.rx.length ∧ (∀ j, j ≠ k → t.rx[j]? = s.rx[j]?) ∧ t.tx = s.tx ∧ t.sch = s.sch ∧ t.fatal = s.fatal ∧
    t.fatalCode = s.fatalCode ∧ t.cfg = s.cfg ∧ t.chkPending = s.chkPending ∧ t.ret = s.ret ∧ t.script = s.script ∧
    t.turn = s.turn ∧ t.freeCtr = s.freeCtr

/-- Nothing of the block changed but the scheduler and transmit channel `c`. -/
def OnlySchTx (c : Nat) (s t : State) : Prop :=
  t.tx.length = s.tx.length ∧ (∀ j, j ≠ c → t.tx[j]? = s.tx[j]?) ∧ t.rx = s.rx ∧ t.fatal = s.fatal ∧
    t.fatalCode = s.fatalCode ∧ t.cfg = s.cfg ∧ t.chkPending = s.chkPending ∧ t.ret = s.ret ∧ t.script = s.script ∧
    t.turn = s.turn ∧ t.freeCtr = s.freeCtr

/-- Nothing of the block and nothing on the ports changed; only the model's own fields may have. -/
def BlockStill (s t : State) : Prop :=
  t.fatal = s.fatal ∧ t.fatalCode = s.fatalCode ∧ t.rx = s.rx ∧ t.tx = s.tx ∧ t.sch = s.sch ∧ t.cfg = s.cfg ∧
    t.chkPending = s.chkPending ∧ t.env = s.env ∧ t.log = s.log

/-- The worker an operation belongs to, and the state in which it is enabled (R40, R190). -/
def workerStateOf : Instr → Option (Nat × RxSt)
  | .rxFill k => some (k, .fill)
  | .rxSearch k => some (k, .search)
  | .rxValidate k => some (k, .validate)
  | .rxExtract k => some (k, .extract)
  | .rxShift k => some (k, .shift)
  | .rxHalt k => some (k, .fill)
  | _ => none

/-- The phase in which an operation of the scheduler is enabled (R52, R210). -/
def phaseOf : Instr → Option Phase
  | .txWait => some .wait
  | .txDevrd => some .devrd
  | .txAssign => some .assign
  | .txDrain => some .drain
  | .txFail => some .drain
  | .txAbort => some .devrd
  | _ => none

/-- The transmit channel an operation of the scheduler may change: the channel at `sch.ci` for TX.DRAIN and TX.FAIL (R218,
R222), the least free channel for TX.ASSIGN (R216), none for the others. -/
def touchedTx : Instr → State → Option Nat
  | .txDrain, s => some s.sch.ci
  | .txFail, s => some s.sch.ci
  | .txAssign, s => s.tx.findIdx? TxChan.isFree
  | _, _ => none

/-- A run has failed (R289). -/
def State.failed (s : State) : Bool := s.fatal

end Sys2Proof.Machine
end

