-- ==== Sys2Proof/Certificates/Slice0/Obligations.lean ====
section
/-! DEFINITION. The statements for the provers. Each says what an operation or the machine does, from the numbered rules of
spec/; where a clause rests on a choice of the model, the docstring names the log entry. That a pure function run as an
instruction leaves its result in the latch `ret` is entry 5 in every statement that says so. -/

open Sys2Proof Sys2Proof.Machine

/-! Length codec. -/

/-- GOLAY.ENC completes in every state; a one-bit value gives the configured codeword of that bit, and every encoder the
model can be configured with has property G1, so those twelve codewords determine it (entry 2). -/
def Obligations.GolayEncReturnsCodeword : Prop :=
  (∀ (s : State) (v : LengthWord), exec (.golayEnc v) s = .next (s.setRet (.codeword (golayEnc s.cfg v)))) ∧
  ∀ g : Cfg, G1 (golayEnc g) ∧ ∀ i : Fin 12, golayEnc g (BitVec.twoPow 12 i) = g.golay[i]

/-- The default rows compute the polynomial division of R140, the upper 12 bits of every codeword are the value, and the
default encoder has properties G2 and G3. -/
def Obligations.DefaultGolayIsPolynomialDivision : Prop :=
  ∀ g : Cfg, g.golay = golayDefaultRows →
    (∀ v : LengthWord, golayEnc g v = golayPoly v ∧ (golayEnc g v).extractLsb' 11 12 = v) ∧
      G2 (golayEnc g) ∧ G3 (golayEnc g)

/-- LEN.ENC returns the direct and the masked codeword for every length up to MTU; that it is refused above is entry 26. -/
def Obligations.LenEncReturnsPair : Prop :=
  ∀ (s : State) (len : Nat),
    (len ≤ 1600 → exec (.lenEnc len) s = .next (s.setRet (.pair (golayEnc s.cfg (BitVec.ofNat 12 len))
      (golayEnc s.cfg (BitVec.ofNat 12 len ^^^ 0xFFF))))) ∧
    (1600 < len → exec (.lenEnc len) s = .refused .outsideDomain)

/-- R108: under G1 and G3, which the default has, codeword B is the complement of A, every footer pair is (a, not a), and
a footer has 23 ones. -/
def Obligations.LengthCodewordsComplementary : Prop :=
  (∀ g : Cfg, G1 (golayEnc g) → G3 (golayEnc g) → ∀ len, len ≤ 1600 →
    (lenEnc g len).2 = (lenEnc g len).1 ^^^ 0x7FFFFF ∧
      (∀ i, i < 23 → (footerOf g len)[2 * i + 1]? = ((footerOf g len)[2 * i]?).map (fun b => !b)) ∧
      ((footerOf g len).filter id).length = 23) ∧
  ∀ g : Cfg, g.golay = golayDefaultRows → G1 (golayEnc g) ∧ G3 (golayEnc g)

/-- LEN.ILV interleaves, A at even and B at odd positions, and is a bijection between pairs of codewords and 46-bit
sequences (R142). That the result is left in the latch is entry 5. -/
def Obligations.LenIlvIsBijectiveInterleaving : Prop :=
  (∀ (s : State) (a b : Codeword), exec (.lenIlv a b) s = .next (s.setRet (.bits (lenIlv a b)))) ∧
  (∀ a b : Codeword, (lenIlv a b).length = 46 ∧ ∀ i, i < 23 →
    (lenIlv a b)[2 * i]? = some (a.getLsbD i) ∧ (lenIlv a b)[2 * i + 1]? = some (b.getLsbD i)) ∧
  (∀ f : Bits, f.length = 46 → ∃ a b, lenIlv a b = f) ∧
  (∀ a b a' b' : Codeword, lenIlv a b = lenIlv a' b' → a = a' ∧ b = b') ∧
  lenIlv 0x0018EA 0x7FE715 =
    "0110011001101010010101101001010101010101010101".toList.map (fun c => c == '1')

/-- LEN.DEC returns the least length of 0 .. MTU with the greatest score, and that score; other than 23 soft values are
outside its domain and refused (entry 26). -/
def Obligations.LenDecIsLeastBest : Prop :=
  ∀ (s : State) (x : List Soft) (par : Bool),
    (x.length = 23 → ∃ v c, exec (.lenDec x par) s = .next (s.setRet (.lenConf v c)) ∧
      LeastMax (lenScoreSpec s.cfg x par) 0 1600 v c) ∧
    (x.length ≠ 23 → exec (.lenDec x par) s = .refused .outsideDomain)

/-- R145: the noiseless codewords of a length decode to it, with confidence 23a. -/
def Obligations.LengthRoundTripNoiseless : Prop :=
  ∀ g : Cfg, G2 (golayEnc g) → ∀ (len : Nat) (a : Int), len ≤ 1600 → 0 < a →
    lenDec g (hardSoft a (codewordBits (lenEnc g len).1)) false = (len, 23 * a) ∧
      lenDec g (hardSoft a (codewordBits (lenEnc g len).2)) true = (len, 23 * a)

/-- Under G1 and G3, 23 odd values that are the negatives of the even ones decode to the same pair. -/
def Obligations.ComplementaryFooterAgrees : Prop :=
  ∀ g : Cfg, G1 (golayEnc g) → G3 (golayEnc g) → ∀ sa : List Soft, sa.length = 23 →
    lenDec g (sa.map fun x => -x) true = lenDec g sa false

/-! Synchronizer. -/

/-- UW.CORR returns the sum of R160 inside the sequence. That it faults outside it is entry 15: R160 gives only the domain,
and R81 speaks of the buffers. -/
def Obligations.UwCorrReturnsSum : Prop :=
  ∀ (s : State) (sd : List Soft) (o : Nat),
    (o + 48 ≤ sd.length → exec (.uwCorr sd o) s = .next (s.setRet (.score (uwCorrSpec s.cfg sd o)))) ∧
    (sd.length < o + 48 → exec (.uwCorr sd o) s = .fault (.outOfRange .operand o 48 sd.length))

/-- UW.SEARCH returns the least offset of lo .. hi with the greatest score. Outside its domain it faults past the end
(entry 15) and is refused for hi < lo (entry 26). -/
def Obligations.UwSearchIsLeastBest : Prop :=
  ∀ (s : State) (sd : List Soft) (lo hi : Nat),
    (lo ≤ hi → hi + 48 ≤ sd.length → ∃ o x, exec (.uwSearch sd lo hi) s = .next (s.setRet (.offset o x)) ∧
      LeastMax (uwCorrSpec s.cfg sd) lo hi o x) ∧
    (lo ≤ hi → sd.length < hi + 48 →
      exec (.uwSearch sd lo hi) s = .fault (.outOfRange .operand hi 48 sd.length)) ∧
    (hi < lo → exec (.uwSearch sd lo hi) s = .refused .outsideDomain)

/-- R162: the search over a noiseless copy of the unique word peaks at the true offset. -/
def Obligations.UwSearchPeaksAtCopy : Prop :=
  ∀ (g : Cfg) (sd : List Soft) (lo hi t : Nat) (a : Int),
    lo ≤ t → t ≤ hi → hi + 48 ≤ sd.length → 0 < a →
    (∀ i, lo ≤ i → i < hi + 48 → sd.getD i 0 = a ∨ sd.getD i 0 = -a) →
    (∀ i, i < 48 → sd.getD (t + i) 0 = if g.uw.getLsbD i then a else -a) →
    (∀ p, lo ≤ p → p ≤ hi → p ≠ t → ∃ i, i < 48 ∧ sd.getD (p + i) 0 ≠ if g.uw.getLsbD i then a else -a) →
    uwSearch g sd lo hi = (t, 48 * a)

/-! Frame codec. -/

/-- SCR returns the byte XOR 0x55; it is its own inverse; the corner cases of the rule (R170). That the result is left in the
latch is entry 5. -/
def Obligations.ScrXorsMask : Prop :=
  (∀ (s : State) (b : Byte), exec (.scr b) s = .next (s.setRet (.byte (b ^^^ 0x55))) ∧ scr b = b ^^^ 0x55 ∧
    scr (scr b) = b) ∧
  scr 0x00 = 0x55 ∧ scr 0x55 = 0x00 ∧ scr 0xFF = 0xAA ∧ scr 0xAA = 0xFF ∧ scr 0x01 = 0x54 ∧
  payloadBits [0x00] = [true, false, true, false, true, false, true, false] ∧
  payloadBits [0x55] = List.replicate 8 false

/-- SER returns the bits of the bytes in order, each least significant first (R171). That the result is left in the latch is
entry 5. -/
def Obligations.SerLeastSignificantFirst : Prop :=
  (∀ (s : State) (p : Packet), exec (.ser p) s = .next (s.setRet (.bits (ser p)))) ∧
  (∀ p : Packet, (ser p).length = 8 * p.length ∧ ∀ k j, k < p.length → j < 8 →
    (ser p)[8 * k + j]? = some ((p.getD k 0).getLsbD j)) ∧
  ser [] = [] ∧ ser [0x54] = [false, false, true, false, true, false, true, false]

/-- DESER makes byte k of bits 8k .. 8k+7 and is the inverse of SER (R172). That a number of bits that is no multiple of 8
is refused is entry 26. -/
def Obligations.DeserInvertsSer : Prop :=
  (∀ (s : State) (bits : Bits), bits.length % 8 = 0 → exec (.deser bits) s = .next (s.setRet (.packet (deser bits)))) ∧
  (∀ (s : State) (bits : Bits), bits.length % 8 ≠ 0 → exec (.deser bits) s = .refused .outsideDomain) ∧
  (∀ bits : Bits, bits.length % 8 = 0 → (deser bits).length = bits.length / 8 ∧ ∀ k, k < bits.length / 8 →
    (deser bits)[k]? = some (BitVec.ofNat 8 ((List.range 8).map fun j => (bits.getD (8 * k + j) false).toNat <<< j).sum)) ∧
  (∀ p : Packet, deser (ser p) = p) ∧
  (∀ bits : Bits, bits.length % 8 = 0 → ser (deser bits) = bits) ∧
  deser [] = [] ∧ deser [true, true, true, false, true, false, true, false] = [0x57]

/-- FILLER returns m bits, bit j being j mod 2; it restarts at 0 at every call, so after an odd run two equal bits meet
(R174). That the result is left in the latch is entry 5. -/
def Obligations.FillerAlternates : Prop :=
  (∀ (s : State) (m : Nat), exec (.filler m) s = .next (s.setRet (.bits (filler m)))) ∧
  (∀ m, (filler m).length = m ∧ ∀ j, j < m → (filler m)[j]? = some (j % 2 == 1)) ∧
  (∀ m n, m % 2 = 1 → 0 < n → (filler m).getLast? = some false ∧ (filler n).head? = some false) ∧
  filler 0 = [] ∧ filler 1 = [false] ∧ filler 6 = [false, true, false, true, false, true]

/-- FRM.ENC assembles the frame field by field: leading unique word (or none), payload, footer, trailing unique word.
That a packet above MTU is refused is entry 26: R177 leaves it to the caller. -/
def Obligations.FrmEncLaysOutFrame : Prop :=
  ∀ (s : State) (p : Packet) (lead : Bool),
    (p.length ≤ 1600 → ∃ f, exec (.frmEnc p lead) s = .next (s.setRet (.bits f)) ∧
      f.length = (if lead then 142 else 94) + 8 * p.length ∧
      (lead = true → ∀ i, i < 48 → f[i]? = some (s.cfg.uw.getLsbD i)) ∧
      (∀ k j, k < p.length → j < 8 →
        f[(if lead then 48 else 0) + 8 * k + j]? = some ((p.getD k 0 ^^^ 0x55).getLsbD j)) ∧
      (∀ i, i < 23 →
        f[(if lead then 48 else 0) + 8 * p.length + 2 * i]? =
          some ((golayEnc s.cfg (BitVec.ofNat 12 p.length)).getLsbD i) ∧
        f[(if lead then 48 else 0) + 8 * p.length + 2 * i + 1]? =
          some ((golayEnc s.cfg (BitVec.ofNat 12 p.length ^^^ 0xFFF)).getLsbD i)) ∧
      ∀ i, i < 48 → f[(if lead then 48 else 0) + 8 * p.length + 46 + i]? = some (s.cfg.uw.getLsbD i)) ∧
    (1600 < p.length → exec (.frmEnc p lead) s = .refused .outsideDomain)

/-- FRM.DEC decodes both lengths from the 46 soft values before the offset and returns Rejected, Filler or Accepted with
the payload before the footer; from the offset 12846 on, R179's domain, it always completes. What it does at the offsets
below 12846, where it computes the same as long as every position it reads is in the window, is the model's, and so are the
faults: below 46, past the window's end, and where the payload would start before the window (entry 15). -/
def Obligations.FrmDecClassifiesCandidate : Prop :=
  ∀ (s : State) (bits : Bits) (sd : List Soft) (o : Nat), bits.length = sd.length →
    (12846 ≤ o → o ≤ sd.length → ∃ v, exec (.frmDec bits sd o) s = .next (s.setRet v)) ∧
    (46 ≤ o → o ≤ sd.length → ∃ la ca lb cb,
      LeastMax (lenScoreSpec s.cfg (footA sd o) false) 0 1600 la ca ∧
      LeastMax (lenScoreSpec s.cfg (footB sd o) true) 0 1600 lb cb ∧
      (la ≠ lb → exec (.frmDec bits sd o) s = .next (s.setRet (.frame (.rejected .lenMismatch la lb) la ca lb cb))) ∧
      (la = lb → la = 0 → exec (.frmDec bits sd o) s = .next (s.setRet (.frame .filler la ca lb cb))) ∧
      (la = lb → la ≠ 0 → 46 + 8 * la ≤ o → ∃ pkt, IsPayload bits o la pkt ∧
        exec (.frmDec bits sd o) s = .next (s.setRet (.frame (.accepted pkt) la ca lb cb))) ∧
      (la = lb → la ≠ 0 → o < 46 + 8 * la →
        exec (.frmDec bits sd o) s = .fault (.outOfRange .operand o (8 * la) bits.length))) ∧
    (o < 46 → exec (.frmDec bits sd o) s = .fault (.outOfRange .operand o 46 sd.length)) ∧
    (46 ≤ o → sd.length < o → exec (.frmDec bits sd o) s = .fault (.outOfRange .operand (o - 46) 46 sd.length))

/-- A noiseless frame before the offset decodes to its packet, or to Filler where the packet is empty (R180), and leaves
that in the latch (entry 5). At the offsets from 46 + 8L to 12845, outside R179's domain, that FRM.DEC answers this is the
model's choice (entry 15). -/
def Obligations.FrameRoundTripNoiseless : Prop :=
  ∀ (s : State) (p : Packet) (bits : Bits) (sd : List Soft) (o : Nat) (a : Int),
    G2 (golayEnc s.cfg) → p.length ≤ 1600 → 0 < a → 46 + 8 * p.length ≤ o → o + 48 ≤ bits.length → bits.length = sd.length →
    (bits.drop (o - 46 - 8 * p.length)).take (94 + 8 * p.length) = frmEnc s.cfg p false →
    (sd.drop (o - 46 - 8 * p.length)).take (94 + 8 * p.length) = hardSoft a (frmEnc s.cfg p false) →
    exec (.frmDec bits sd o) s = .next (s.setRet
      (.frame (if p.length = 0 then .filler else .accepted p) p.length (23 * a) p.length (23 * a)))

/-! Patterns and reserved operations. -/

/-- The wire and word patterns of the opcode table assemble their fields. That a pattern is an instruction, and where its
bits go, is the model's choice (entries 4 and 5), and so is the refusal of lengths above MTU (entry 26); the bits are those
of R100 to R109 and R140. -/
def Obligations.WirePatternsAssembleFields : Prop :=
  ∀ (s : State) (b : Byte) (d : LengthWord) (len : Nat),
    exec .wireUw s = .next (s.setRet (.bits ((List.range 48).map fun i => s.cfg.uw.getLsbD i))) ∧
    exec (.wirePayloadByte b) s = .next (s.setRet (.bits ((List.range 8).map fun j => (b ^^^ 0x55).getLsbD j))) ∧
    (len ≤ 1600 → exec (.wireFooter len) s = .next (s.setRet (.bits (lenIlv (golayEnc s.cfg (BitVec.ofNat 12 len))
      (golayEnc s.cfg (BitVec.ofNat 12 len ^^^ 0xFFF)))))) ∧
    exec .wireFiller s = .next (s.setRet (.bits [false, true])) ∧
    exec (.wireFrameL1 b) s = exec (.frmEnc [b] true) s ∧ exec (.wireFrameL1 b) s =
      .next (s.setRet (.bits (frmEnc s.cfg [b] true))) ∧
    exec (.wireFrameNoleadL1 b) s = .next (s.setRet (.bits (frmEnc s.cfg [b] false))) ∧
    (len ≤ 1600 → exec (.wordLength len) s = .next (s.setRet (.lengthWord (BitVec.ofNat 12 len)))) ∧
    exec (.wordCodeword d) s = .next (s.setRet (.codewordFields ((golayEnc s.cfg d).extractLsb' 11 12)
      ((golayEnc s.cfg d).extractLsb' 0 11))) ∧
    (1600 < len → exec (.wireFooter len) s = .refused .outsideDomain ∧
      exec (.wordLength len) s = .refused .outsideDomain)

/-- R124: the two reserved operations are refused by name, and the reserved state and cause codes belong to nothing. -/
def Obligations.ReservedOperationsRefused : Prop :=
  (∀ s : State, exec .lenVote s = .refused (.reservedOperation "LEN.VOTE") ∧
    exec .uwHard s = .refused (.reservedOperation "UW.HARD")) ∧
  opNumber .lenVote = 0x05 ∧ opNumber .uwHard = 0x12 ∧
  (∀ st : RxSt, st.code ≠ 5 ∧ st.code ≠ 6) ∧ ∀ c : Cause, c.code ≠ 5 ∧ c.code ≠ 6 ∧ c.code ≠ 7 ∧ c.code ≠ 15

/-! Receive worker. -/

/-- RX.FILL writes a legal chunk at BASE, keeps every other position, and goes to SEARCH; the transfer is consumed. -/
def Obligations.RxFillTakesChunk : Prop :=
  ∀ (s : State) (k : Nat) (r : RxChan) (c : Chunk),
    s.rx[k]? = some r → s.fatal = false → s.chkPending = false → r.st = .fill → s.rxOffered k = some c →
    c.eos = false → 1 ≤ c.n → c.n ≤ s.cfg.chunkMax k → c.cbits.length = c.n → c.csd.length = c.n →
    (∀ x ∈ c.csd, s.cfg.softOk x = true) → r.bits.length = s.cfg.wRx k → r.sd.length = s.cfg.wRx k →
    ∃ (t : State) (bits : Bits) (sd : List Soft), exec (.rxFill k) s = .next t ∧
      t.rx[k]? = some { r with bits := bits, sd := sd, n := c.n, wr := 12942 + c.n, st := .search } ∧
      bits.length = r.bits.length ∧ sd.length = r.sd.length ∧
      (∀ i, i < c.n → bits[12942 + i]? = c.cbits[i]? ∧ sd[12942 + i]? = c.csd[i]?) ∧
      (∀ i, i < 12942 ∨ 12942 + c.n ≤ i → bits[i]? = r.bits[i]? ∧ sd[i]? = r.sd[i]?) ∧
      OnlyRx k s t ∧ t.log = s.log ++ [.rxin k c] ∧ t.rxOffered k = (s.env.rxin.getD k []).tail.head? ∧
      (∀ j, j ≠ k → t.env.rxin.getD j [] = s.env.rxin.getD j []) ∧ t.env = { s.env with rxin := t.env.rxin }

/-- RX.FILL waits while nothing is offered, does nothing at an end of stream, and refuses a chunk that breaks the port's
contract (entry 16), here and not at the offer (entry 29). That waiting leaves the state unchanged is the model's form of it (entry 9). -/
def Obligations.RxFillWaitsOrRefuses : Prop :=
  ∀ (s : State) (k : Nat) (r : RxChan), s.rx[k]? = some r → s.fatal = false → s.chkPending = false → r.st = .fill →
    (s.rxOffered k = none → exec (.rxFill k) s = .next s) ∧
    (∀ c, s.rxOffered k = some c → c.eos = true → exec (.rxFill k) s = .next s) ∧
    (∀ c, s.rxOffered k = some c → c.eos = false → (c.n = 0 ∨ s.cfg.chunkMax k < c.n ∨ c.cbits.length ≠ c.n ∨
        c.csd.length ≠ c.n ∨ ∃ x ∈ c.csd, s.cfg.softOk x = false) →
      exec (.rxFill k) s = .refused (.chunkContract k c.n))

/-- RX.SEARCH tries exactly the offsets BASE-47 .. BASE+n-48 and stores the least of greatest score. -/
def Obligations.RxSearchFindsCandidate : Prop :=
  ∀ (s : State) (k : Nat) (r : RxChan), s.rx[k]? = some r → s.fatal = false → s.chkPending = false → r.st = .search →
    1 ≤ r.n → 12942 + r.n ≤ r.sd.length →
    ∃ t o x, exec (.rxSearch k) s = .next t ∧ t.rx[k]? = some { r with cand := o, candScore := x, st := .validate } ∧
      LeastMax (uwCorrSpec s.cfg r.sd) 12895 (12942 + r.n - 48) o x ∧ OnlyRx k s t ∧ t.env = s.env ∧ t.log = s.log

/-- RX.VALIDATE stores both lengths and confidences and the verdict on them. -/
def Obligations.RxValidateDecodesFooter : Prop :=
  ∀ (s : State) (k : Nat) (r : RxChan), s.rx[k]? = some r → s.fatal = false → s.chkPending = false → r.st = .validate →
    46 ≤ r.cand → r.cand ≤ r.sd.length →
    ∃ t la ca lb cb, exec (.rxValidate k) s = .next t ∧
      t.rx[k]? = some { r with
        lenA := la, confA := ca, lenB := lb, confB := cb, st := .extract
        verdict := if la ≠ lb then .reject else if la = 0 then .filler else .accept } ∧
      LeastMax (lenScoreSpec s.cfg (footA r.sd r.cand) false) 0 1600 la ca ∧
      LeastMax (lenScoreSpec s.cfg (footB r.sd r.cand) true) 0 1600 lb cb ∧
      OnlyRx k s t ∧ t.env = s.env ∧ t.log = s.log

/-- RX.EXTRACT with verdict ACCEPT emits the de-scrambled payload as one packet and one trace event. -/
def Obligations.RxExtractDeliversPacket : Prop :=
  ∀ (s : State) (k : Nat) (r : RxChan), s.rx[k]? = some r → s.fatal = false → s.chkPending = false → r.st = .extract →
    r.verdict = .accept → s.env.devwrReady = true → 46 + 8 * r.lenA ≤ r.cand → r.cand ≤ r.bits.length + 46 →
    ∃ t pkt, exec (.rxExtract k) s = .next t ∧ t.rx[k]? = some { r with st := .shift } ∧
      IsPayload r.bits r.cand r.lenA pkt ∧
      t.log = s.log ++ [.devwr pkt, .trace
        { op := 0x33, ch := some k, code := .accepted, info := [(r.lenA : Int), r.candScore, r.confA, r.confB] }] ∧
      OnlyRx k s t ∧ t.env = { s.env with devwrReady := s.env.devwrHold }

/-- RX.EXTRACT waits while an accepted packet cannot be written; a rejected candidate leaves one trace event; any other
verdict only changes the state of the worker. -/
def Obligations.RxExtractWithoutDelivery : Prop :=
  ∀ (s : State) (k : Nat) (r : RxChan), s.rx[k]? = some r → s.fatal = false → s.chkPending = false → r.st = .extract →
    (r.verdict = .accept → s.env.devwrReady = false → exec (.rxExtract k) s = .next s) ∧
    (r.verdict = .reject → exec (.rxExtract k) s = .next ((s.setRx k { r with st := .shift }).traceEv 0x33 (some k)
      .lenMismatch [(r.lenA : Int), (r.lenB : Int), r.candScore])) ∧
    (r.verdict = .filler ∨ r.verdict = .none → exec (.rxExtract k) s = .next (s.setRx k { r with st := .shift }))

/-- RX.SHIFT moves the whole window down by n and brings zeros in at the end. -/
def Obligations.RxShiftMovesWindow : Prop :=
  ∀ (s : State) (k : Nat) (r : RxChan), s.rx[k]? = some r → s.fatal = false → s.chkPending = false → r.st = .shift →
    r.n ≤ r.bits.length → r.n ≤ r.sd.length →
    ∃ (t : State) (bits : Bits) (sd : List Soft), exec (.rxShift k) s = .next t ∧
      t.rx[k]? = some { r with bits := bits, sd := sd, n := 0, wr := 12942, verdict := .none, st := .fill } ∧
      bits.length = r.bits.length ∧ sd.length = r.sd.length ∧
      (∀ i, i + r.n < r.bits.length → bits[i]? = r.bits[i + r.n]?) ∧
      (∀ i, i + r.n < r.sd.length → sd[i]? = r.sd[i + r.n]?) ∧
      (∀ i, r.bits.length ≤ i + r.n → i < r.bits.length → bits[i]? = some false) ∧
      (∀ i, r.sd.length ≤ i + r.n → i < r.sd.length → sd[i]? = some 0) ∧
      OnlyRx k s t ∧ t.env = s.env ∧ t.log = s.log

/-- RX.HALT takes the end of stream, halts the worker with RX_EOS and leaves its window; without an end of stream it does
nothing. -/
def Obligations.RxHaltEndsWorker : Prop :=
  ∀ (s : State) (k : Nat) (r : RxChan), s.rx[k]? = some r → s.fatal = false → s.chkPending = false → r.st = .fill →
    (∀ c, s.rxOffered k = some c → c.eos = true → ∃ t, exec (.rxHalt k) s = .next t ∧
      t.rx[k]? = some { r with st := .halt, haltCode := .rxEos } ∧ OnlyRx k s t ∧
      t.log = s.log ++ [.rxin k c, .trace { op := 0x35, ch := some k, code := .rxEos, info := [] }] ∧
      t.rxOffered k = (s.env.rxin.getD k []).tail.head? ∧
      (∀ j, j ≠ k → t.env.rxin.getD j [] = s.env.rxin.getD j []) ∧ t.env = { s.env with rxin := t.env.rxin }) ∧
    (s.rxOffered k = none → exec (.rxHalt k) s = .next s) ∧
    (∀ c, s.rxOffered k = some c → c.eos = false → exec (.rxHalt k) s = .next s)

/-- Between an RX.FILL and the RX.SHIFT that ends its iteration the window goes from the last BASE elements of the stream
to the last BASE elements of the stream with the chunk appended, whatever comes between as long as it leaves the window
and its length n alone. -/
def Obligations.WindowIsLastOfStream : Prop :=
  ∀ (s t u v : State) (k : Nat) (r ru : RxChan) (c : Chunk),
    s.rx[k]? = some r → r.bits.length = s.cfg.wRx k → r.sd.length = s.cfg.wRx k → s.rxOffered k = some c →
    exec (.rxFill k) s = .next t → (∃ rt, t.rx[k]? = some rt ∧ rt.st = .search ∧
      ru.bits = rt.bits ∧ ru.sd = rt.sd ∧ ru.n = rt.n) → r.st = .fill →
    u.rx[k]? = some ru → ru.st = .shift → u.fatal = false → u.chkPending = false → exec (.rxShift k) u = .next v →
    ∃ rv, v.rx[k]? = some rv ∧
      rv.bits.take 12942 = (r.bits.take 12942 ++ c.cbits).drop c.n ∧
      rv.sd.take 12942 = (r.sd.take 12942 ++ c.csd).drop c.n

/-- A worker's operation changes no other worker, not the scheduler, no transmit channel, and of what the environment shows
only its own chunk port and the readiness of the device write port; it adds to the end of the log. -/
def Obligations.WorkersAreIndependent : Prop :=
  ∀ (i : Instr) (k : Nat) (st : RxSt) (s t : State), workerStateOf i = some (k, st) → exec i s = .next t →
    OnlyRx k s t ∧ (∀ j, j ≠ k → t.env.rxin.getD j [] = s.env.rxin.getD j []) ∧
      t.env = { s.env with rxin := t.env.rxin, devwrReady := t.env.devwrReady } ∧ ∃ new, t.log = s.log ++ new

/-- An operation that is not enabled does not happen: nothing changes. That it is no refusal is the model's choice
(entry 9). An operation of a worker that does not exist is refused by name (entry 22). -/
def Obligations.DisabledOperationChangesNothing : Prop :=
  (∀ (i : Instr) (k : Nat) (st : RxSt) (s : State) (r : RxChan), workerStateOf i = some (k, st) → s.rx[k]? = some r →
    (s.fatal = true ∨ s.chkPending = true ∨ r.st ≠ st) → exec i s = .next s) ∧
  (∀ (i : Instr) (k : Nat) (st : RxSt) (s : State), workerStateOf i = some (k, st) → s.rx.length ≤ k →
    exec i s = .refused (.noSuchChannel k)) ∧
  ∀ (i : Instr) (ph : Phase) (s : State), phaseOf i = some ph →
    (s.fatal = true ∨ s.chkPending = true ∨ s.sch.ph ≠ ph) → exec i s = .next s

/-! Transmit scheduler. -/

/-- TX.WAIT latches every watched event that is present, and waits while there is none. -/
def Obligations.TxWaitLatchesEvents : Prop :=
  ∀ s : State, s.fatal = false → s.chkPending = false → s.sch.ph = .wait →
    (((s.sch.pendValid = false ∧ s.env.devPkts ≠ []) ∨
        ∃ (c : Nat) (u : TxChan), s.tx[c]? = some u ∧ u.alive = true ∧ s.env.txRdy.getD c false = true) →
      ∃ evWr, exec .txWait s = .next (s.setSch { s.sch with
          ph := .devrd, evDev := !s.sch.pendValid && !s.env.devPkts.isEmpty, evWr := evWr }) ∧
        evWr.length = s.tx.length ∧
        ∀ (c : Nat) (u : TxChan), s.tx[c]? = some u → evWr[c]? = some (u.alive && s.env.txRdy.getD c false)) ∧
    (¬ ((s.sch.pendValid = false ∧ s.env.devPkts ≠ []) ∨
        ∃ (c : Nat) (u : TxChan), s.tx[c]? = some u ∧ u.alive = true ∧ s.env.txRdy.getD c false = true) →
      exec .txWait s = .next s)

/-- TX.DEVRD takes one packet into the empty slot. -/
def Obligations.TxDevrdTakesPacket : Prop :=
  ∀ (s : State) (p : Packet) (rest : List Packet), s.fatal = false → s.chkPending = false → s.sch.ph = .devrd →
    s.sch.evDev = true → s.sch.pendValid = false → s.env.devPkts = p :: rest → p.length ≤ 1600 →
    s.sch.pendData.length = 1600 →
    ∃ (t : State) (data : List Byte), exec .txDevrd s = .next t ∧
      t.sch = { s.sch with pendData := data, pendLen := p.length, pendValid := true, ph := .assign } ∧
      data.length = 1600 ∧ (∀ i, i < p.length → data[i]? = p[i]?) ∧
      (∀ i, p.length ≤ i → data[i]? = s.sch.pendData[i]?) ∧
      t.log = s.log ++ [.devrd p] ∧ t.env = { s.env with devPkts := rest } ∧ t.tx = s.tx ∧ OnlySchTx 0 s t

/-- TX.DEVRD without a latched event only changes the phase; it waits while the packet is gone (entries 9, 21), and
refuses a packet above MTU (entry 16), here and not at the offer (entry 29). -/
def Obligations.TxDevrdOtherCases : Prop :=
  ∀ s : State, s.fatal = false → s.chkPending = false → s.sch.ph = .devrd →
    (s.sch.evDev = false → exec .txDevrd s = .next (s.setSch { s.sch with ph := .assign })) ∧
    (s.sch.evDev = true → s.sch.pendValid = false → s.env.devPkts = [] → exec .txDevrd s = .next s) ∧
    (∀ p rest, s.sch.evDev = true → s.sch.pendValid = false → s.env.devPkts = p :: rest → 1600 < p.length →
      exec .txDevrd s = .refused (.packetTooLong p.length))

/-- TX.ASSIGN frames the packet in the slot into the queue of the least free channel, at its real count, without the
leading unique word where real data is queued. -/
def Obligations.TxAssignQueuesFrame : Prop :=
  ∀ (s : State) (c : Nat) (u : TxChan) (f : Bits), s.fatal = false → s.chkPending = false → s.sch.ph = .assign →
    s.sch.pendValid = true → s.tx[c]? = some u → u.alive = true → u.real ≤ 48 →
    (∀ (j : Nat) (w : TxChan), j < c → s.tx[j]? = some w → w.alive = false ∨ 48 < w.real) →
    s.sch.pendLen ≤ s.sch.pendData.length →
    f = frmEnc s.cfg (s.sch.pendData.take s.sch.pendLen) (u.real == 0) → u.real + f.length ≤ u.q.length →
    ∃ (t : State) (q : Bits), exec .txAssign s = .next t ∧
      t.tx[c]? = some { u with q := q, real := u.real + f.length } ∧
      q.length = u.q.length ∧ (∀ i, i < f.length → q[u.real + i]? = f[i]?) ∧
      (∀ i, i < u.real ∨ u.real + f.length ≤ i → q[i]? = u.q[i]?) ∧
      t.sch = { s.sch with pendValid := false, ci := 0, ph := if s.cfg.ntx = 0 then .wait else .drain } ∧
      t.log = s.log ++ [.trace
        { op := 0x42, ch := some c, code := .queued,
          info := [(s.sch.pendLen : Int), (u.real : Int), (f.length : Int)] }] ∧
      OnlySchTx c s t ∧ t.env = s.env

/-- TX.ASSIGN with an empty slot only goes on; with no free channel the packet stays and BUSY is traced. -/
def Obligations.TxAssignBusyOrEmpty : Prop :=
  ∀ s : State, s.fatal = false → s.chkPending = false → s.sch.ph = .assign →
    (s.sch.pendValid = false → exec .txAssign s = .next (s.setSch { s.sch with
      ci := 0, ph := if s.cfg.ntx = 0 then .wait else .drain })) ∧
    (s.sch.pendValid = true → (∀ (c : Nat) (u : TxChan), s.tx[c]? = some u → u.alive = false ∨ 48 < u.real) →
      exec .txAssign s = .next ((s.setSch { s.sch with
        ci := 0, ph := if s.cfg.ntx = 0 then .wait else .drain }).traceEv 0x42 none .busy [(s.sch.pendLen : Int)]))

/-- A transmit channel that TX.ASSIGN changes was alive with at most one unique word queued, and is above that afterwards:
no double queueing. -/
def Obligations.AssignmentOnlyToFreeChannel : Prop :=
  ∀ (s t : State) (c : Nat) (u u' : TxChan), exec .txAssign s = .next t → s.tx[c]? = some u → t.tx[c]? = some u' →
    u' ≠ u → u.alive = true ∧ u.real ≤ 48 ∧ s.sch.pendValid = true ∧ t.sch.pendValid = false ∧
      u'.real = u.real + (if u.real = 0 then 142 else 94) + 8 * s.sch.pendLen ∧ 48 < u'.real ∧ u'.alive = true

/-- TX.DRAIN emits exactly one quantum of a ready, live channel, moves the queue down by it, brings filler in at the tail
and lowers the real count, not below zero. -/
def Obligations.TxDrainEmitsQuantum : Prop :=
  ∀ (s : State) (u : TxChan), s.fatal = false → s.chkPending = false → s.sch.ph = .drain →
    s.tx[s.sch.ci]? = some u → s.sch.evWr.getD s.sch.ci false = true → u.alive = true → s.answer s.sch.ci = .ok →
    s.cfg.quantum s.sch.ci ≤ u.q.length →
    ∃ (t : State) (q : Bits), exec .txDrain s = .next t ∧
      t.tx[s.sch.ci]? = some { u with
        q := q, real := if s.cfg.quantum s.sch.ci ≤ u.real then u.real - s.cfg.quantum s.sch.ci else 0 } ∧
      q.length = u.q.length ∧
      (∀ i, i + s.cfg.quantum s.sch.ci < u.q.length → q[i]? = u.q[i + s.cfg.quantum s.sch.ci]?) ∧
      (∀ j, j < s.cfg.quantum s.sch.ci → q[u.q.length - s.cfg.quantum s.sch.ci + j]? = some (j % 2 == 1)) ∧
      t.sch = { s.sch with ci := s.sch.ci + 1, ph := if s.sch.ci + 1 = s.cfg.ntx then .wait else .drain } ∧
      t.log = s.log ++ [.txout s.sch.ci (u.q.take (s.cfg.quantum s.sch.ci)) .ok] ∧ OnlySchTx s.sch.ci s t ∧
      t.env = { s.env with txRdy := s.env.txRdy.set s.sch.ci false, txAns := s.env.txAns.set s.sch.ci .ok }

/-- TX.DRAIN passes over a channel that is dead or was not ready, and waits while a quantum it must emit is not taken. -/
def Obligations.TxDrainSkipsOrWaits : Prop :=
  ∀ (s : State) (u : TxChan), s.fatal = false → s.chkPending = false → s.sch.ph = .drain →
    s.tx[s.sch.ci]? = some u →
    ((s.sch.evWr.getD s.sch.ci false = false ∨ u.alive = false) → exec .txDrain s = .next (s.setSch { s.sch with
      ci := s.sch.ci + 1, ph := if s.sch.ci + 1 = s.cfg.ntx then .wait else .drain })) ∧
    (s.sch.evWr.getD s.sch.ci false = true → u.alive = true → s.cfg.quantum s.sch.ci ≤ u.q.length →
      s.answer s.sch.ci = .notTaken → exec .txDrain s = .next s)

/-- A quantum answered err takes TX_SINK, under the name TX.FAIL and inside TX.DRAIN alike: the channel dies, its queue and
count stay, the next channel is looked at. -/
def Obligations.TxFailKillsChannel : Prop :=
  ∀ (s : State) (u : TxChan), s.fatal = false → s.chkPending = false → s.sch.ph = .drain →
    s.tx[s.sch.ci]? = some u → s.sch.evWr.getD s.sch.ci false = true → u.alive = true → s.answer s.sch.ci = .err →
    s.cfg.quantum s.sch.ci ≤ u.q.length →
    ∃ t, exec .txFail s = .next t ∧ exec .txDrain s = .next t ∧
      t.tx[s.sch.ci]? = some { u with alive := false } ∧
      t.sch = { s.sch with ci := s.sch.ci + 1, ph := if s.sch.ci + 1 = s.cfg.ntx then .wait else .drain } ∧
      t.log = s.log ++ [.txout s.sch.ci (u.q.take (s.cfg.quantum s.sch.ci)) .err,
        .trace { op := 0x44, ch := some s.sch.ci, code := .txSink, info := [(u.real : Int)] }] ∧
      OnlySchTx s.sch.ci s t ∧
      t.env = { s.env with txRdy := s.env.txRdy.set s.sch.ci false, txAns := s.env.txAns.set s.sch.ci .ok }

/-- A device event latched over an occupied slot takes ASSERT_BACKLOG, under the name TX.ABORT and inside TX.DEVRD alike;
no packet is taken. -/
def Obligations.TxAbortIsFatal : Prop :=
  ∀ s : State, s.fatal = false → s.chkPending = false → s.sch.ph = .devrd → s.sch.evDev = true →
    s.sch.pendValid = true →
    exec .txAbort s = .next ({ s with fatal := true, fatalCode := .assertBacklog }.traceEv 0x45 none .assertBacklog []) ∧
      exec .txDevrd s = exec .txAbort s

/-- An operation of the scheduler changes no receive channel and no configuration, and no transmit channel but the one at
`sch.ci` (TX.DRAIN, TX.FAIL) or the least free one (TX.ASSIGN); of what the environment shows it changes at most that
channel's readiness and answer (TX.DRAIN, TX.FAIL) and the packets offered (TX.DEVRD). -/
def Obligations.SchedulerLeavesWorkersAlone : Prop :=
  ∀ (i : Instr) (ph : Phase) (s t : State), phaseOf i = some ph → exec i s = .next t →
    t.rx = s.rx ∧ t.cfg = s.cfg ∧ t.chkPending = s.chkPending ∧ t.ret = s.ret ∧ t.script = s.script ∧ t.turn = s.turn ∧
      t.freeCtr = s.freeCtr ∧ (∃ new, t.log = s.log ++ new) ∧ t.tx.length = s.tx.length ∧
      (∀ j : Nat, touchedTx i s ≠ some j →
        t.tx[j]? = s.tx[j]? ∧ t.env.txRdy[j]? = s.env.txRdy[j]? ∧ t.env.txAns[j]? = s.env.txAns[j]?) ∧
      t.env = { s.env with devPkts := t.env.devPkts, txRdy := t.env.txRdy, txAns := t.env.txAns } ∧
      (i ≠ .txDevrd → t.env.devPkts = s.env.devPkts) ∧
      (i ≠ .txDrain → i ≠ .txFail → t.env.txRdy = s.env.txRdy ∧ t.env.txAns = s.env.txAns)

/-! Causes, reset and start-up. -/

/-- SYS.RESET, enabled whenever rst is asserted, puts every element at its value of the reset table under the
configuration presented, whatever the state was, a check still due included (entry 30); the bytes of the slot are left
unsaid (entry 13). Without rst it does not happen (entry 9). -/
def Obligations.SysResetRestoresTable : Prop :=
  ∀ s : State, (s.env.rst = true → ∃ t, exec .sysReset s = .next t ∧
      t.fatal = false ∧ t.fatalCode = .none ∧ t.cfg = s.env.cfgIn ∧ t.chkPending = true ∧
      t.rx.length = s.env.cfgIn.nrx ∧
      (∀ k : Nat, k < s.env.cfgIn.nrx → t.rx[k]? = some {
        st := .fill, bits := List.replicate (12942 + s.env.cfgIn.chunkMax k) false,
        sd := List.replicate (12942 + s.env.cfgIn.chunkMax k) 0, wr := 12942, n := 0, cand := 0, candScore := 0,
        lenA := 0, lenB := 0, confA := 0, confB := 0, verdict := .none, haltCode := .none }) ∧
      t.tx.length = s.env.cfgIn.ntx ∧
      (∀ c, c < s.env.cfgIn.ntx → ∃ u, t.tx[c]? = some u ∧ u.real = 0 ∧ u.alive = true ∧
        u.q.length = 12942 + s.env.cfgIn.quantum c ∧ ∀ i, i < u.q.length → u.q[i]? = some (i % 2 == 1)) ∧
      t.sch =
        { ph := .wait, evDev := false, evWr := List.replicate s.env.cfgIn.ntx false, ci := 0, pendValid := false,
          pendLen := 0, pendData := t.sch.pendData } ∧
      t.sch.pendData.length = 1600 ∧ t.env = s.env ∧ t.log = s.log ∧ t.script = s.script) ∧
    (s.env.rst = false → exec .sysReset s = .next s)

/-- SYS.CFGCHK makes its tests in the order of R283 and takes CFG at the first that fails; if none fails it halts exactly
the workers whose source did not open; it happens only when it is due, once after however many SYS.RESETs (entries 10,
30). -/
def Obligations.SysCfgchkTestsInOrder : Prop :=
  ∀ s : State,
    (s.chkPending = true → s.env.rst = false →
      (∀ i : Int,
        ((i = 1 ∧ s.env.argsOk = false) ∨ (i = 2 ∧ s.env.argsOk = true ∧ s.cfg.valid = false) ∨
          (i = 3 ∧ s.env.argsOk = true ∧ s.cfg.valid = true ∧ ∃ c, c < s.cfg.ntx ∧ s.env.txSinkOk.getD c false = false) ∨
          (i = 4 ∧ s.env.argsOk = true ∧ s.cfg.valid = true ∧ s.env.devOk = false ∧
            ∀ c, c < s.cfg.ntx → s.env.txSinkOk.getD c false = true)) →
        exec .sysCfgchk s = .next ({ s with fatal := true, fatalCode := .cfg, chkPending := false }.traceEv
          0x51 none .cfg [i])) ∧
      (s.env.argsOk = true → s.cfg.valid = true → s.env.devOk = true →
        (∀ c, c < s.cfg.ntx → s.env.txSinkOk.getD c false = true) → s.rx.length = s.cfg.nrx →
        ∃ t, exec .sysCfgchk s = .next t ∧ t.chkPending = false ∧ t.fatal = s.fatal ∧ t.fatalCode = s.fatalCode ∧
          t.tx = s.tx ∧ t.sch = s.sch ∧ t.cfg = s.cfg ∧ t.env = s.env ∧
          (∀ (k : Nat) (r : RxChan), s.rx[k]? = some r → t.rx[k]? = some (if s.env.rxSrcOk.getD k false then r
            else { r with st := .halt, haltCode := .rxOpen })) ∧
          t.log = s.log ++ ((List.range s.cfg.nrx).filter fun k => !s.env.rxSrcOk.getD k false).map fun k =>
            .trace { op := 0x51, ch := some k, code := .rxOpen, info := [] })) ∧
    ((s.chkPending = false ∨ s.env.rst = true) → exec .sysCfgchk s = .next s)

/-- While fatal is set no operation of a worker or of the scheduler, nor any other but a reset or a check that is due,
changes anything of the block, the ports or the status outputs (R250); only SYS.RESET leaves the fatal state. That an
operation of a worker or of the scheduler then answers the same state is entry 9, and that a step with no move in the script
does is entry 6. -/
def Obligations.FatalStopsEverything : Prop :=
  (∀ (i : Instr) (s t : State), s.fatal = true → i ≠ .sysReset → (i = .sysCfgchk → s.chkPending = false) →
    exec i s = .next t → BlockStill s t ∧ statusOutputs t = statusOutputs s) ∧
  (∀ (i : Instr) (k : Nat) (st : RxSt) (s : State), s.fatal = true → workerStateOf i = some (k, st) → k < s.rx.length →
    exec i s = .next s) ∧
  (∀ (i : Instr) (ph : Phase) (s : State), s.fatal = true → phaseOf i = some ph → exec i s = .next s) ∧
  (∀ s : State, s.fatal = true → s.chkPending = false → s.env.rst = false → s.script = [] → step s = .next s) ∧
  (∀ (i : Instr) (s t : State), s.fatal = true → exec i s = .next t → t.fatal = false → i = .sysReset) ∧
  ∀ s : State, s.fatal = true → s.env.rst = true → ∃ t, exec .sysReset s = .next t ∧ t.fatal = false

/-- `fatal` becomes 1 only by SYS.CFGCHK, or by a device event latched over an occupied slot. -/
def Obligations.FatalOnlyFromTwoCauses : Prop :=
  ∀ (i : Instr) (s t : State), exec i s = .next t → t.fatal = true → s.fatal = true ∨
    (i = .sysCfgchk ∧ t.fatalCode = .cfg) ∨
      ((i = .txDevrd ∨ i = .txAbort) ∧ s.sch.evDev = true ∧ s.sch.pendValid = true ∧ t.fatalCode = .assertBacklog)

/-- A halted worker and a dead transmit channel never change again but by reset. -/
def Obligations.StoppedChannelsStayStopped : Prop :=
  (∀ (i : Instr) (s t : State) (k : Nat) (r : RxChan), i ≠ .sysReset → s.chkPending = false → exec i s = .next t →
    s.rx[k]? = some r → r.st = .halt → t.rx[k]? = some r) ∧
  ∀ (i : Instr) (s t : State) (c : Nat) (u : TxChan), i ≠ .sysReset → exec i s = .next t → s.tx[c]? = some u →
    u.alive = false → t.tx[c]? = some u

/-- The configuration in force changes in no step but one in which rst is asserted. -/
def Obligations.ConfigurationConstantBetweenResets : Prop :=
  ∀ s t : State, step s = .next t → s.env.rst = false → t.cfg = s.cfg

/-- An event of the environment changes what the ports show and nothing else; another configuration without rst, and a
start-up input moved before the check, are refused. -/
def Obligations.EnvironmentOnlyMovesPorts : Prop :=
  (∀ (e : EnvEvent) (s t : State), applyEnv e s = .next t → t = s.setEnv t.env) ∧
  (∀ (g : Cfg) (s : State), s.env.rst = false → applyEnv (.cfg g) s = .refused .cfgWithoutReset) ∧
  ∀ (a d : Bool) (x y : List Bool) (s : State), s.chkPending = true → s.env.rst = false →
    applyEnv (.startup a x d y) s = .refused .startupMoved

/-! Status. -/

/-- The status outputs show `fatal`, `fatal_code`, `st` and `halt_code` of every receive channel, `alive` and `real` of every
transmit channel and `pend_valid`, in this order (R57), under the codes of R40, R47, R52 and R240; a real count the invariant
allows fits its 14 bits. That the levels are one tuple is the model's form of them. -/
def Obligations.StatusOutputsShowState : Prop :=
  (∀ s : State, statusOutputs s = (s.fatal, s.fatalCode.code, s.rx.map (fun r => (r.st.code, r.haltCode.code)),
    s.tx.map (fun u => (u.alive, BitVec.ofNat 14 u.real)), s.sch.pendValid)) ∧
  (∀ u : TxChan, u.real ≤ 12942 → (txStatus u).2.toNat = u.real) ∧
  [RxSt.fill, .search, .validate, .extract, .shift, .halt].map RxSt.code = [0, 1, 2, 3, 4, 7] ∧
  [Verdict.none, .accept, .filler, .reject].map Verdict.code = [0, 1, 2, 3] ∧
  [Phase.wait, .devrd, .assign, .drain].map Phase.code = [0, 1, 2, 3] ∧
  [Cause.none, .accepted, .filler, .queued, .busy, .lenMismatch, .lenRange, .rxEos, .rxOpen, .txSink, .cfg,
    .assertBacklog].map Cause.code = [0, 1, 2, 3, 4, 8, 9, 10, 11, 12, 13, 14]

/-! The machine. -/

/-- A step runs the operation its script names: exec of it, in the state whose script starts after it; a word that decodes
to nothing is refused by name, and an event of the environment happens. With an empty script it runs the operation the
arbiter names, and changes nothing where it names none. The script and the round-robin choice are the model's (entry 6). -/
def Obligations.StepRunsDecodedOperation : Prop :=
  (∀ (s : State) (slot : List Byte) (rest : List Move) (i : Instr), s.script = .op slot :: rest →
    fetchWord slot = .ok i → step s = exec i { s with script := rest }) ∧
  (∀ (s : State) (slot : List Byte) (rest : List Move) (e : DecodeError), s.script = .op slot :: rest →
    fetchWord slot = .error e → step s = .refused (.undecodable e)) ∧
  (∀ (s : State) (e : EnvEvent) (rest : List Move), s.script = .env e :: rest →
    step s = applyEnv e { s with script := rest }) ∧
  (∀ (s : State) (turn : Nat) (i : Instr), s.script = [] → arbiter s = some (turn, i) →
    step s = exec i { s with turn := turn }) ∧
  ∀ s : State, s.script = [] → arbiter s = none → step s = .next s

/-- The arbiter names an operation that its agent's own sequencing register enables, and none while fatal is set. -/
def Obligations.ArbiterFollowsSequencingRegisters : Prop :=
  ∀ (s : State) (turn : Nat) (i : Instr), arbiter s = some (turn, i) → s.env.rst = false → s.chkPending = false →
    s.fatal = false ∧
      ((∃ k st r, workerStateOf i = some (k, st) ∧ k < s.cfg.nrx ∧ s.rx[k]? = some r ∧ r.st = st ∧ turn = k + 1) ∨
        (phaseOf i = some s.sch.ph ∧ turn = s.cfg.nrx + 1))

/-- Where the arbiter names nothing, every agent waits: in a state that meets the invariant, no operation of a worker or of
the scheduler, and neither system operation, changes anything. -/
def Obligations.QuietMachineWaits : Prop :=
  ∀ (s : State) (i : Instr), StateInv s → arbiter s = none →
    ((∃ k st, workerStateOf i = some (k, st) ∧ k < s.cfg.nrx) ∨ (∃ ph, phaseOf i = some ph) ∨ i = .sysReset ∨
      i = .sysCfgchk) → exec i s = .next s

/-- Decode and encode agree on every well-formed operation, whatever bytes come after its word. -/
def Obligations.DecodeInvertsEncode : Prop :=
  ∀ i : Instr, i.wf = true → (∀ rest, decode (encode i ++ rest) = .ok (i, rest)) ∧ fetchWord (encode i) = .ok i

/-- What the decoder reads is well formed. -/
def Obligations.DecodedIsWellFormed : Prop :=
  ∀ (w rest : List Byte) (i : Instr), decode w = .ok (i, rest) → i.wf = true

/-- Words written out from the operation numbers of R121, one or more a family, decode to their operations, and so does the
word of a pattern. The operand bytes are the model's layout (entry 3), and the number of a pattern is the model's
(entry 4). -/
def Obligations.SpelledWordsDecode : Prop :=
  fetchWord [0x01, 0x03, 0x00] = .ok (.golayEnc 3) ∧ fetchWord [0x02, 0x40, 0x06] = .ok (.lenEnc 1600) ∧
  fetchWord [0x10, 0x01, 0x00, 0x00, 0x00, 0x05] = .ok (.uwCorr (5 :: List.replicate 48 0) 1) ∧
  fetchWord [0x12] = .ok .uwHard ∧
  fetchWord [0x20, 0xFF] = .ok (.scr 0xFF) ∧ fetchWord [0x23, 0x01, 0x01, 0x00, 0xAA] = .ok (.frmEnc [0xAA] true) ∧
  fetchWord [0x30, 0x01, 0x00] = .ok (.rxFill 1) ∧ fetchWord [0x34, 0x00, 0x01] = .ok (.rxShift 256) ∧
  fetchWord [0x40] = .ok .txWait ∧ fetchWord [0x45] = .ok .txAbort ∧ fetchWord [0x50] = .ok .sysReset ∧
  fetchWord [0x05] = .ok .lenVote ∧ fetchWord [0x83] = .ok .wireFiller ∧
  fetchWord [0x06] = .error (.unknownOperation 0x06)

/-- The state after reset meets the invariant, under every configuration and environment, the test configuration of
State.reset (entry 1) included. -/
def Obligations.ResetMeetsInvariant : Prop := (∀ (g : Cfg) (e : Env), StateInv (State.boot g e)) ∧ StateInv State.reset

/-- Every step keeps the invariant of R62. -/
def Obligations.StepKeepsInvariant : Prop := ∀ s t : State, StateInv s → step s = .next t → StateInv t

/-- In a state that meets the invariant no step computes a position outside its buffer. -/
def Obligations.StepNeverFaults : Prop := ∀ (s : State) (f : Fault), StateInv s → step s ≠ .fault f

/-- In a state that meets the invariant, every packet a step delivers has 1 to MTU bytes and every quantum it emits has
exactly the channel's size. -/
def Obligations.TransfersHaveContractSizes : Prop :=
  ∀ s t : State, StateInv s → step s = .next t → ∃ new, t.log = s.log ++ new ∧
    (∀ p, .devwr p ∈ new → 1 ≤ p.length ∧ p.length ≤ 1600) ∧
    ∀ c b a, .txout c b a ∈ new → b.length = s.cfg.quantum c
end

