-- ==== Sys2Proof/Laws/State.lean ====
section
/-! SUPPORT. One lemma per field per update of the state, so that no proof unfolds a record update. -/

namespace Sys2Proof.Machine

/-! `setRx`. -/

@[simp] theorem State.setRx_fatal (s : State) (k : Nat) (r : RxChan) :
    (s.setRx k r).fatal = s.fatal := rfl
@[simp] theorem State.setRx_fatalCode (s : State) (k : Nat) (r : RxChan) :
    (s.setRx k r).fatalCode = s.fatalCode := rfl
@[simp] theorem State.setRx_rx (s : State) (k : Nat) (r : RxChan) :
    (s.setRx k r).rx = s.rx.set k r := rfl
@[simp] theorem State.setRx_tx (s : State) (k : Nat) (r : RxChan) :
    (s.setRx k r).tx = s.tx := rfl
@[simp] theorem State.setRx_sch (s : State) (k : Nat) (r : RxChan) :
    (s.setRx k r).sch = s.sch := rfl
@[simp] theorem State.setRx_cfg (s : State) (k : Nat) (r : RxChan) :
    (s.setRx k r).cfg = s.cfg := rfl
@[simp] theorem State.setRx_env (s : State) (k : Nat) (r : RxChan) :
    (s.setRx k r).env = s.env := rfl
@[simp] theorem State.setRx_chkPending (s : State) (k : Nat) (r : RxChan) :
    (s.setRx k r).chkPending = s.chkPending := rfl
@[simp] theorem State.setRx_ret (s : State) (k : Nat) (r : RxChan) :
    (s.setRx k r).ret = s.ret := rfl
@[simp] theorem State.setRx_log (s : State) (k : Nat) (r : RxChan) :
    (s.setRx k r).log = s.log := rfl
@[simp] theorem State.setRx_script (s : State) (k : Nat) (r : RxChan) :
    (s.setRx k r).script = s.script := rfl
@[simp] theorem State.setRx_turn (s : State) (k : Nat) (r : RxChan) :
    (s.setRx k r).turn = s.turn := rfl
@[simp] theorem State.setRx_freeCtr (s : State) (k : Nat) (r : RxChan) :
    (s.setRx k r).freeCtr = s.freeCtr := rfl

/-! `setTx`. -/

@[simp] theorem State.setTx_fatal (s : State) (c : Nat) (t : TxChan) :
    (s.setTx c t).fatal = s.fatal := rfl
@[simp] theorem State.setTx_fatalCode (s : State) (c : Nat) (t : TxChan) :
    (s.setTx c t).fatalCode = s.fatalCode := rfl
@[simp] theorem State.setTx_rx (s : State) (c : Nat) (t : TxChan) :
    (s.setTx c t).rx = s.rx := rfl
@[simp] theorem State.setTx_tx (s : State) (c : Nat) (t : TxChan) :
    (s.setTx c t).tx = s.tx.set c t := rfl
@[simp] theorem State.setTx_sch (s : State) (c : Nat) (t : TxChan) :
    (s.setTx c t).sch = s.sch := rfl
@[simp] theorem State.setTx_cfg (s : State) (c : Nat) (t : TxChan) :
    (s.setTx c t).cfg = s.cfg := rfl
@[simp] theorem State.setTx_env (s : State) (c : Nat) (t : TxChan) :
    (s.setTx c t).env = s.env := rfl
@[simp] theorem State.setTx_chkPending (s : State) (c : Nat) (t : TxChan) :
    (s.setTx c t).chkPending = s.chkPending := rfl
@[simp] theorem State.setTx_ret (s : State) (c : Nat) (t : TxChan) :
    (s.setTx c t).ret = s.ret := rfl
@[simp] theorem State.setTx_log (s : State) (c : Nat) (t : TxChan) :
    (s.setTx c t).log = s.log := rfl
@[simp] theorem State.setTx_script (s : State) (c : Nat) (t : TxChan) :
    (s.setTx c t).script = s.script := rfl
@[simp] theorem State.setTx_turn (s : State) (c : Nat) (t : TxChan) :
    (s.setTx c t).turn = s.turn := rfl
@[simp] theorem State.setTx_freeCtr (s : State) (c : Nat) (t : TxChan) :
    (s.setTx c t).freeCtr = s.freeCtr := rfl

/-! `setSch`. -/

@[simp] theorem State.setSch_fatal (s : State) (q : Sched) :
    (s.setSch q).fatal = s.fatal := rfl
@[simp] theorem State.setSch_fatalCode (s : State) (q : Sched) :
    (s.setSch q).fatalCode = s.fatalCode := rfl
@[simp] theorem State.setSch_rx (s : State) (q : Sched) :
    (s.setSch q).rx = s.rx := rfl
@[simp] theorem State.setSch_tx (s : State) (q : Sched) :
    (s.setSch q).tx = s.tx := rfl
@[simp] theorem State.setSch_sch (s : State) (q : Sched) :
    (s.setSch q).sch = q := rfl
@[simp] theorem State.setSch_cfg (s : State) (q : Sched) :
    (s.setSch q).cfg = s.cfg := rfl
@[simp] theorem State.setSch_env (s : State) (q : Sched) :
    (s.setSch q).env = s.env := rfl
@[simp] theorem State.setSch_chkPending (s : State) (q : Sched) :
    (s.setSch q).chkPending = s.chkPending := rfl
@[simp] theorem State.setSch_ret (s : State) (q : Sched) :
    (s.setSch q).ret = s.ret := rfl
@[simp] theorem State.setSch_log (s : State) (q : Sched) :
    (s.setSch q).log = s.log := rfl
@[simp] theorem State.setSch_script (s : State) (q : Sched) :
    (s.setSch q).script = s.script := rfl
@[simp] theorem State.setSch_turn (s : State) (q : Sched) :
    (s.setSch q).turn = s.turn := rfl
@[simp] theorem State.setSch_freeCtr (s : State) (q : Sched) :
    (s.setSch q).freeCtr = s.freeCtr := rfl

/-! `setRet`. -/

@[simp] theorem State.setRet_fatal (s : State) (v : Ret) :
    (s.setRet v).fatal = s.fatal := rfl
@[simp] theorem State.setRet_fatalCode (s : State) (v : Ret) :
    (s.setRet v).fatalCode = s.fatalCode := rfl
@[simp] theorem State.setRet_rx (s : State) (v : Ret) :
    (s.setRet v).rx = s.rx := rfl
@[simp] theorem State.setRet_tx (s : State) (v : Ret) :
    (s.setRet v).tx = s.tx := rfl
@[simp] theorem State.setRet_sch (s : State) (v : Ret) :
    (s.setRet v).sch = s.sch := rfl
@[simp] theorem State.setRet_cfg (s : State) (v : Ret) :
    (s.setRet v).cfg = s.cfg := rfl
@[simp] theorem State.setRet_env (s : State) (v : Ret) :
    (s.setRet v).env = s.env := rfl
@[simp] theorem State.setRet_chkPending (s : State) (v : Ret) :
    (s.setRet v).chkPending = s.chkPending := rfl
@[simp] theorem State.setRet_ret (s : State) (v : Ret) :
    (s.setRet v).ret = v := rfl
@[simp] theorem State.setRet_log (s : State) (v : Ret) :
    (s.setRet v).log = s.log := rfl
@[simp] theorem State.setRet_script (s : State) (v : Ret) :
    (s.setRet v).script = s.script := rfl
@[simp] theorem State.setRet_turn (s : State) (v : Ret) :
    (s.setRet v).turn = s.turn := rfl
@[simp] theorem State.setRet_freeCtr (s : State) (v : Ret) :
    (s.setRet v).freeCtr = s.freeCtr := rfl

/-! `setEnv`. -/

@[simp] theorem State.setEnv_fatal (s : State) (e : Env) :
    (s.setEnv e).fatal = s.fatal := rfl
@[simp] theorem State.setEnv_fatalCode (s : State) (e : Env) :
    (s.setEnv e).fatalCode = s.fatalCode := rfl
@[simp] theorem State.setEnv_rx (s : State) (e : Env) :
    (s.setEnv e).rx = s.rx := rfl
@[simp] theorem State.setEnv_tx (s : State) (e : Env) :
    (s.setEnv e).tx = s.tx := rfl
@[simp] theorem State.setEnv_sch (s : State) (e : Env) :
    (s.setEnv e).sch = s.sch := rfl
@[simp] theorem State.setEnv_cfg (s : State) (e : Env) :
    (s.setEnv e).cfg = s.cfg := rfl
@[simp] theorem State.setEnv_env (s : State) (e : Env) :
    (s.setEnv e).env = e := rfl
@[simp] theorem State.setEnv_chkPending (s : State) (e : Env) :
    (s.setEnv e).chkPending = s.chkPending := rfl
@[simp] theorem State.setEnv_ret (s : State) (e : Env) :
    (s.setEnv e).ret = s.ret := rfl
@[simp] theorem State.setEnv_log (s : State) (e : Env) :
    (s.setEnv e).log = s.log := rfl
@[simp] theorem State.setEnv_script (s : State) (e : Env) :
    (s.setEnv e).script = s.script := rfl
@[simp] theorem State.setEnv_turn (s : State) (e : Env) :
    (s.setEnv e).turn = s.turn := rfl
@[simp] theorem State.setEnv_freeCtr (s : State) (e : Env) :
    (s.setEnv e).freeCtr = s.freeCtr := rfl

/-! `setFatal`. -/

@[simp] theorem State.setFatal_fatal (s : State) (c : Cause) :
    (s.setFatal c).fatal = true := rfl
@[simp] theorem State.setFatal_fatalCode (s : State) (c : Cause) :
    (s.setFatal c).fatalCode = c := rfl
@[simp] theorem State.setFatal_rx (s : State) (c : Cause) :
    (s.setFatal c).rx = s.rx := rfl
@[simp] theorem State.setFatal_tx (s : State) (c : Cause) :
    (s.setFatal c).tx = s.tx := rfl
@[simp] theorem State.setFatal_sch (s : State) (c : Cause) :
    (s.setFatal c).sch = s.sch := rfl
@[simp] theorem State.setFatal_cfg (s : State) (c : Cause) :
    (s.setFatal c).cfg = s.cfg := rfl
@[simp] theorem State.setFatal_env (s : State) (c : Cause) :
    (s.setFatal c).env = s.env := rfl
@[simp] theorem State.setFatal_chkPending (s : State) (c : Cause) :
    (s.setFatal c).chkPending = s.chkPending := rfl
@[simp] theorem State.setFatal_ret (s : State) (c : Cause) :
    (s.setFatal c).ret = s.ret := rfl
@[simp] theorem State.setFatal_log (s : State) (c : Cause) :
    (s.setFatal c).log = s.log := rfl
@[simp] theorem State.setFatal_script (s : State) (c : Cause) :
    (s.setFatal c).script = s.script := rfl
@[simp] theorem State.setFatal_turn (s : State) (c : Cause) :
    (s.setFatal c).turn = s.turn := rfl
@[simp] theorem State.setFatal_freeCtr (s : State) (c : Cause) :
    (s.setFatal c).freeCtr = s.freeCtr := rfl

/-! `emit`. -/

@[simp] theorem State.emit_fatal (s : State) (e : PortEvent) :
    (s.emit e).fatal = s.fatal := rfl
@[simp] theorem State.emit_fatalCode (s : State) (e : PortEvent) :
    (s.emit e).fatalCode = s.fatalCode := rfl
@[simp] theorem State.emit_rx (s : State) (e : PortEvent) :
    (s.emit e).rx = s.rx := rfl
@[simp] theorem State.emit_tx (s : State) (e : PortEvent) :
    (s.emit e).tx = s.tx := rfl
@[simp] theorem State.emit_sch (s : State) (e : PortEvent) :
    (s.emit e).sch = s.sch := rfl
@[simp] theorem State.emit_cfg (s : State) (e : PortEvent) :
    (s.emit e).cfg = s.cfg := rfl
@[simp] theorem State.emit_env (s : State) (e : PortEvent) :
    (s.emit e).env = s.env := rfl
@[simp] theorem State.emit_chkPending (s : State) (e : PortEvent) :
    (s.emit e).chkPending = s.chkPending := rfl
@[simp] theorem State.emit_ret (s : State) (e : PortEvent) :
    (s.emit e).ret = s.ret := rfl
@[simp] theorem State.emit_log (s : State) (e : PortEvent) :
    (s.emit e).log = s.log ++ [e] := rfl
@[simp] theorem State.emit_script (s : State) (e : PortEvent) :
    (s.emit e).script = s.script := rfl
@[simp] theorem State.emit_turn (s : State) (e : PortEvent) :
    (s.emit e).turn = s.turn := rfl
@[simp] theorem State.emit_freeCtr (s : State) (e : PortEvent) :
    (s.emit e).freeCtr = s.freeCtr := rfl

/-! `traceEv`. -/

@[simp] theorem State.traceEv_fatal (s : State) (op : Byte) (ch : Option Nat) (c : Cause) (info : List Int) :
    (s.traceEv op ch c info).fatal = s.fatal := rfl
@[simp] theorem State.traceEv_fatalCode (s : State) (op : Byte) (ch : Option Nat) (c : Cause) (info : List Int) :
    (s.traceEv op ch c info).fatalCode = s.fatalCode := rfl
@[simp] theorem State.traceEv_rx (s : State) (op : Byte) (ch : Option Nat) (c : Cause) (info : List Int) :
    (s.traceEv op ch c info).rx = s.rx := rfl
@[simp] theorem State.traceEv_tx (s : State) (op : Byte) (ch : Option Nat) (c : Cause) (info : List Int) :
    (s.traceEv op ch c info).tx = s.tx := rfl
@[simp] theorem State.traceEv_sch (s : State) (op : Byte) (ch : Option Nat) (c : Cause) (info : List Int) :
    (s.traceEv op ch c info).sch = s.sch := rfl
@[simp] theorem State.traceEv_cfg (s : State) (op : Byte) (ch : Option Nat) (c : Cause) (info : List Int) :
    (s.traceEv op ch c info).cfg = s.cfg := rfl
@[simp] theorem State.traceEv_env (s : State) (op : Byte) (ch : Option Nat) (c : Cause) (info : List Int) :
    (s.traceEv op ch c info).env = s.env := rfl
@[simp] theorem State.traceEv_chkPending (s : State) (op : Byte) (ch : Option Nat) (c : Cause) (info : List Int) :
    (s.traceEv op ch c info).chkPending = s.chkPending := rfl
@[simp] theorem State.traceEv_ret (s : State) (op : Byte) (ch : Option Nat) (c : Cause) (info : List Int) :
    (s.traceEv op ch c info).ret = s.ret := rfl
@[simp] theorem State.traceEv_log (s : State) (op : Byte) (ch : Option Nat) (c : Cause) (info : List Int) :
    (s.traceEv op ch c info).log = s.log ++ [.trace { op := op, ch := ch, code := c, info := info }] := rfl
@[simp] theorem State.traceEv_script (s : State) (op : Byte) (ch : Option Nat) (c : Cause) (info : List Int) :
    (s.traceEv op ch c info).script = s.script := rfl
@[simp] theorem State.traceEv_turn (s : State) (op : Byte) (ch : Option Nat) (c : Cause) (info : List Int) :
    (s.traceEv op ch c info).turn = s.turn := rfl
@[simp] theorem State.traceEv_freeCtr (s : State) (op : Byte) (ch : Option Nat) (c : Cause) (info : List Int) :
    (s.traceEv op ch c info).freeCtr = s.freeCtr := rfl

/-! `takeRxin`. -/

@[simp] theorem State.takeRxin_fatal (s : State) (k : Nat) (t : Chunk) :
    (s.takeRxin k t).fatal = s.fatal := rfl
@[simp] theorem State.takeRxin_fatalCode (s : State) (k : Nat) (t : Chunk) :
    (s.takeRxin k t).fatalCode = s.fatalCode := rfl
@[simp] theorem State.takeRxin_rx (s : State) (k : Nat) (t : Chunk) :
    (s.takeRxin k t).rx = s.rx := rfl
@[simp] theorem State.takeRxin_tx (s : State) (k : Nat) (t : Chunk) :
    (s.takeRxin k t).tx = s.tx := rfl
@[simp] theorem State.takeRxin_sch (s : State) (k : Nat) (t : Chunk) :
    (s.takeRxin k t).sch = s.sch := rfl
@[simp] theorem State.takeRxin_cfg (s : State) (k : Nat) (t : Chunk) :
    (s.takeRxin k t).cfg = s.cfg := rfl
@[simp] theorem State.takeRxin_env (s : State) (k : Nat) (t : Chunk) :
    (s.takeRxin k t).env = { s.env with rxin := s.env.rxin.set k (s.env.rxin.getD k []).tail } := rfl
@[simp] theorem State.takeRxin_chkPending (s : State) (k : Nat) (t : Chunk) :
    (s.takeRxin k t).chkPending = s.chkPending := rfl
@[simp] theorem State.takeRxin_ret (s : State) (k : Nat) (t : Chunk) :
    (s.takeRxin k t).ret = s.ret := rfl
@[simp] theorem State.takeRxin_log (s : State) (k : Nat) (t : Chunk) :
    (s.takeRxin k t).log = s.log ++ [.rxin k t] := rfl
@[simp] theorem State.takeRxin_script (s : State) (k : Nat) (t : Chunk) :
    (s.takeRxin k t).script = s.script := rfl
@[simp] theorem State.takeRxin_turn (s : State) (k : Nat) (t : Chunk) :
    (s.takeRxin k t).turn = s.turn := rfl
@[simp] theorem State.takeRxin_freeCtr (s : State) (k : Nat) (t : Chunk) :
    (s.takeRxin k t).freeCtr = s.freeCtr := rfl

/-! `takeDevrd`. -/

@[simp] theorem State.takeDevrd_fatal (s : State) (p : Packet) :
    (s.takeDevrd p).fatal = s.fatal := rfl
@[simp] theorem State.takeDevrd_fatalCode (s : State) (p : Packet) :
    (s.takeDevrd p).fatalCode = s.fatalCode := rfl
@[simp] theorem State.takeDevrd_rx (s : State) (p : Packet) :
    (s.takeDevrd p).rx = s.rx := rfl
@[simp] theorem State.takeDevrd_tx (s : State) (p : Packet) :
    (s.takeDevrd p).tx = s.tx := rfl
@[simp] theorem State.takeDevrd_sch (s : State) (p : Packet) :
    (s.takeDevrd p).sch = s.sch := rfl
@[simp] theorem State.takeDevrd_cfg (s : State) (p : Packet) :
    (s.takeDevrd p).cfg = s.cfg := rfl
@[simp] theorem State.takeDevrd_env (s : State) (p : Packet) :
    (s.takeDevrd p).env = { s.env with devPkts := s.env.devPkts.tail } := rfl
@[simp] theorem State.takeDevrd_chkPending (s : State) (p : Packet) :
    (s.takeDevrd p).chkPending = s.chkPending := rfl
@[simp] theorem State.takeDevrd_ret (s : State) (p : Packet) :
    (s.takeDevrd p).ret = s.ret := rfl
@[simp] theorem State.takeDevrd_log (s : State) (p : Packet) :
    (s.takeDevrd p).log = s.log ++ [.devrd p] := rfl
@[simp] theorem State.takeDevrd_script (s : State) (p : Packet) :
    (s.takeDevrd p).script = s.script := rfl
@[simp] theorem State.takeDevrd_turn (s : State) (p : Packet) :
    (s.takeDevrd p).turn = s.turn := rfl
@[simp] theorem State.takeDevrd_freeCtr (s : State) (p : Packet) :
    (s.takeDevrd p).freeCtr = s.freeCtr := rfl

/-! `emitDevwr`. -/

@[simp] theorem State.emitDevwr_fatal (s : State) (p : Packet) :
    (s.emitDevwr p).fatal = s.fatal := rfl
@[simp] theorem State.emitDevwr_fatalCode (s : State) (p : Packet) :
    (s.emitDevwr p).fatalCode = s.fatalCode := rfl
@[simp] theorem State.emitDevwr_rx (s : State) (p : Packet) :
    (s.emitDevwr p).rx = s.rx := rfl
@[simp] theorem State.emitDevwr_tx (s : State) (p : Packet) :
    (s.emitDevwr p).tx = s.tx := rfl
@[simp] theorem State.emitDevwr_sch (s : State) (p : Packet) :
    (s.emitDevwr p).sch = s.sch := rfl
@[simp] theorem State.emitDevwr_cfg (s : State) (p : Packet) :
    (s.emitDevwr p).cfg = s.cfg := rfl
@[simp] theorem State.emitDevwr_env (s : State) (p : Packet) :
    (s.emitDevwr p).env = { s.env with devwrReady := s.env.devwrHold } := rfl
@[simp] theorem State.emitDevwr_chkPending (s : State) (p : Packet) :
    (s.emitDevwr p).chkPending = s.chkPending := rfl
@[simp] theorem State.emitDevwr_ret (s : State) (p : Packet) :
    (s.emitDevwr p).ret = s.ret := rfl
@[simp] theorem State.emitDevwr_log (s : State) (p : Packet) :
    (s.emitDevwr p).log = s.log ++ [.devwr p] := rfl
@[simp] theorem State.emitDevwr_script (s : State) (p : Packet) :
    (s.emitDevwr p).script = s.script := rfl
@[simp] theorem State.emitDevwr_turn (s : State) (p : Packet) :
    (s.emitDevwr p).turn = s.turn := rfl
@[simp] theorem State.emitDevwr_freeCtr (s : State) (p : Packet) :
    (s.emitDevwr p).freeCtr = s.freeCtr := rfl

/-! `emitTxout`. -/

@[simp] theorem State.emitTxout_fatal (s : State) (c : Nat) (b : Bits) (a : TxAnswer) :
    (s.emitTxout c b a).fatal = s.fatal := rfl
@[simp] theorem State.emitTxout_fatalCode (s : State) (c : Nat) (b : Bits) (a : TxAnswer) :
    (s.emitTxout c b a).fatalCode = s.fatalCode := rfl
@[simp] theorem State.emitTxout_rx (s : State) (c : Nat) (b : Bits) (a : TxAnswer) :
    (s.emitTxout c b a).rx = s.rx := rfl
@[simp] theorem State.emitTxout_tx (s : State) (c : Nat) (b : Bits) (a : TxAnswer) :
    (s.emitTxout c b a).tx = s.tx := rfl
@[simp] theorem State.emitTxout_sch (s : State) (c : Nat) (b : Bits) (a : TxAnswer) :
    (s.emitTxout c b a).sch = s.sch := rfl
@[simp] theorem State.emitTxout_cfg (s : State) (c : Nat) (b : Bits) (a : TxAnswer) :
    (s.emitTxout c b a).cfg = s.cfg := rfl
@[simp] theorem State.emitTxout_env (s : State) (c : Nat) (b : Bits) (a : TxAnswer) :
    (s.emitTxout c b a).env = { s.env with txRdy := s.env.txRdy.set c false, txAns := s.env.txAns.set c .ok } := rfl
@[simp] theorem State.emitTxout_chkPending (s : State) (c : Nat) (b : Bits) (a : TxAnswer) :
    (s.emitTxout c b a).chkPending = s.chkPending := rfl
@[simp] theorem State.emitTxout_ret (s : State) (c : Nat) (b : Bits) (a : TxAnswer) :
    (s.emitTxout c b a).ret = s.ret := rfl
@[simp] theorem State.emitTxout_log (s : State) (c : Nat) (b : Bits) (a : TxAnswer) :
    (s.emitTxout c b a).log = s.log ++ [.txout c b a] := rfl
@[simp] theorem State.emitTxout_script (s : State) (c : Nat) (b : Bits) (a : TxAnswer) :
    (s.emitTxout c b a).script = s.script := rfl
@[simp] theorem State.emitTxout_turn (s : State) (c : Nat) (b : Bits) (a : TxAnswer) :
    (s.emitTxout c b a).turn = s.turn := rfl
@[simp] theorem State.emitTxout_freeCtr (s : State) (c : Nat) (b : Bits) (a : TxAnswer) :
    (s.emitTxout c b a).freeCtr = s.freeCtr := rfl

/-! `haltRx` changes `rx` only. -/

@[simp] theorem State.haltRx_fatal (s : State) (k : Nat) (c : Cause) : (s.haltRx k c).fatal = s.fatal := by
  unfold State.haltRx; split <;> rfl
@[simp] theorem State.haltRx_fatalCode (s : State) (k : Nat) (c : Cause) : (s.haltRx k c).fatalCode = s.fatalCode := by
  unfold State.haltRx; split <;> rfl
@[simp] theorem State.haltRx_tx (s : State) (k : Nat) (c : Cause) : (s.haltRx k c).tx = s.tx := by
  unfold State.haltRx; split <;> rfl
@[simp] theorem State.haltRx_sch (s : State) (k : Nat) (c : Cause) : (s.haltRx k c).sch = s.sch := by
  unfold State.haltRx; split <;> rfl
@[simp] theorem State.haltRx_cfg (s : State) (k : Nat) (c : Cause) : (s.haltRx k c).cfg = s.cfg := by
  unfold State.haltRx; split <;> rfl
@[simp] theorem State.haltRx_env (s : State) (k : Nat) (c : Cause) : (s.haltRx k c).env = s.env := by
  unfold State.haltRx; split <;> rfl
@[simp] theorem State.haltRx_chkPending (s : State) (k : Nat) (c : Cause) : (s.haltRx k c).chkPending = s.chkPending := by
  unfold State.haltRx; split <;> rfl
@[simp] theorem State.haltRx_ret (s : State) (k : Nat) (c : Cause) : (s.haltRx k c).ret = s.ret := by
  unfold State.haltRx; split <;> rfl
@[simp] theorem State.haltRx_log (s : State) (k : Nat) (c : Cause) : (s.haltRx k c).log = s.log := by
  unfold State.haltRx; split <;> rfl
@[simp] theorem State.haltRx_script (s : State) (k : Nat) (c : Cause) : (s.haltRx k c).script = s.script := by
  unfold State.haltRx; split <;> rfl
@[simp] theorem State.haltRx_turn (s : State) (k : Nat) (c : Cause) : (s.haltRx k c).turn = s.turn := by
  unfold State.haltRx; split <;> rfl
@[simp] theorem State.haltRx_freeCtr (s : State) (k : Nat) (c : Cause) : (s.haltRx k c).freeCtr = s.freeCtr := by
  unfold State.haltRx; split <;> rfl

/-! `killTx` changes `tx` only. -/

@[simp] theorem State.killTx_fatal (s : State) (c : Nat) : (s.killTx c).fatal = s.fatal := by
  unfold State.killTx; split <;> rfl
@[simp] theorem State.killTx_fatalCode (s : State) (c : Nat) : (s.killTx c).fatalCode = s.fatalCode := by
  unfold State.killTx; split <;> rfl
@[simp] theorem State.killTx_rx (s : State) (c : Nat) : (s.killTx c).rx = s.rx := by
  unfold State.killTx; split <;> rfl
@[simp] theorem State.killTx_sch (s : State) (c : Nat) : (s.killTx c).sch = s.sch := by
  unfold State.killTx; split <;> rfl
@[simp] theorem State.killTx_cfg (s : State) (c : Nat) : (s.killTx c).cfg = s.cfg := by
  unfold State.killTx; split <;> rfl
@[simp] theorem State.killTx_env (s : State) (c : Nat) : (s.killTx c).env = s.env := by
  unfold State.killTx; split <;> rfl
@[simp] theorem State.killTx_chkPending (s : State) (c : Nat) : (s.killTx c).chkPending = s.chkPending := by
  unfold State.killTx; split <;> rfl
@[simp] theorem State.killTx_ret (s : State) (c : Nat) : (s.killTx c).ret = s.ret := by
  unfold State.killTx; split <;> rfl
@[simp] theorem State.killTx_log (s : State) (c : Nat) : (s.killTx c).log = s.log := by
  unfold State.killTx; split <;> rfl
@[simp] theorem State.killTx_script (s : State) (c : Nat) : (s.killTx c).script = s.script := by
  unfold State.killTx; split <;> rfl
@[simp] theorem State.killTx_turn (s : State) (c : Nat) : (s.killTx c).turn = s.turn := by
  unfold State.killTx; split <;> rfl
@[simp] theorem State.killTx_freeCtr (s : State) (c : Nat) : (s.killTx c).freeCtr = s.freeCtr := by
  unfold State.killTx; split <;> rfl

/-- What `haltRx` does to the receive channels. -/
theorem State.haltRx_rx (s : State) (k : Nat) (c : Cause) :
    (s.haltRx k c).rx = match s.rx[k]? with
      | some r => s.rx.set k { r with st := .halt, haltCode := c }
      | none => s.rx := by
  unfold State.haltRx; cases s.rx[k]? <;> rfl

/-- What `killTx` does to the transmit channels. -/
theorem State.killTx_tx (s : State) (c : Nat) :
    (s.killTx c).tx = match s.tx[c]? with
      | some t => s.tx.set c { t with alive := false }
      | none => s.tx := by
  unfold State.killTx; cases s.tx[c]? <;> rfl

end Sys2Proof.Machine
end

