-- ==== Sys2Proof/Laws/Ops.lean ====
section
/-! SUPPORT. One specification lemma per shared operation: what it can answer, said once. Proofs cite these lemmas and do
not unfold the operations. -/

namespace Sys2Proof.Machine

/-! Buffers. -/

theorem memRead_eq_some {α : Type} {xs v : List α} {pos n : Nat} :
    memRead xs pos n = some v ↔ pos + n ≤ xs.length ∧ v = (xs.drop pos).take n := by
  unfold memRead
  split <;> simp_all [eq_comm]

theorem memRead_length {α : Type} {xs v : List α} {pos n : Nat} (h : memRead xs pos n = some v) : v.length = n := by
  obtain ⟨hb, rfl⟩ := memRead_eq_some.1 h
  simp only [List.length_take, List.length_drop]
  omega

/-- Element `i` of what was read is the element at position `pos + i`. -/
theorem memRead_getElem? {α : Type} {xs v : List α} {pos n i : Nat} (h : memRead xs pos n = some v) (hi : i < n) :
    v[i]? = xs[pos + i]? := by
  obtain ⟨_, rfl⟩ := memRead_eq_some.1 h
  rw [List.getElem?_take_of_lt hi, List.getElem?_drop]

theorem memRead_eq_none {α : Type} {xs : List α} {pos n : Nat} : memRead xs pos n = none ↔ xs.length < pos + n := by
  unfold memRead
  split <;> simp_all

theorem memWrite_eq_some {α : Type} {xs v ys : List α} {pos : Nat} :
    memWrite xs pos v = some ys ↔
      pos + v.length ≤ xs.length ∧ ys = xs.take pos ++ v ++ xs.drop (pos + v.length) := by
  unfold memWrite
  split <;> simp_all [eq_comm]

/-- A write keeps the length of the space. -/
theorem memWrite_length {α : Type} {xs v ys : List α} {pos : Nat} (h : memWrite xs pos v = some ys) :
    ys.length = xs.length := by
  obtain ⟨hb, rfl⟩ := memWrite_eq_some.1 h
  simp only [List.length_append, List.length_take, List.length_drop]
  omega

/-- A read after a write gives, inside the written positions, what was written, and elsewhere what was there. -/
theorem memWrite_getElem? {α : Type} {xs v ys : List α} {pos : Nat} (h : memWrite xs pos v = some ys) (i : Nat) :
    ys[i]? = if pos ≤ i ∧ i < pos + v.length then v[i - pos]? else xs[i]? := by
  obtain ⟨hb, rfl⟩ := memWrite_eq_some.1 h
  have hp : (xs.take pos).length = pos := by simp only [List.length_take]; omega
  rcases Nat.lt_or_ge i pos with hi | hi
  · rw [if_neg (by omega), List.append_assoc, List.getElem?_append_left (by omega), List.getElem?_take_of_lt hi]
  · rcases Nat.lt_or_ge i (pos + v.length) with hv | hv
    · rw [if_pos ⟨hi, hv⟩, List.append_assoc, List.getElem?_append_right (by omega), hp,
        List.getElem?_append_left (by omega)]
    · rw [if_neg (by omega), List.getElem?_append_right (by simp only [List.length_append, hp]; omega),
        List.getElem?_drop]
      congr 1
      simp only [List.length_append, hp]
      omega

theorem shiftIn_eq_some {α : Type} {xs tail ys : List α} :
    shiftIn xs tail = some ys ↔ tail.length ≤ xs.length ∧ ys = xs.drop tail.length ++ tail := by
  unfold shiftIn
  split <;> simp_all [eq_comm]

/-- A shift keeps the length of the space. -/
theorem shiftIn_length {α : Type} {xs tail ys : List α} (h : shiftIn xs tail = some ys) : ys.length = xs.length := by
  obtain ⟨hb, rfl⟩ := shiftIn_eq_some.1 h
  simp only [List.length_append, List.length_drop]
  omega

/-- After a shift by `n`, position `i` holds what position `i + n` held, and the last `n` positions hold the tail. -/
theorem shiftIn_getElem? {α : Type} {xs tail ys : List α} (h : shiftIn xs tail = some ys) (i : Nat) :
    ys[i]? = if i + tail.length < xs.length then xs[i + tail.length]? else tail[i - (xs.length - tail.length)]? := by
  obtain ⟨hb, rfl⟩ := shiftIn_eq_some.1 h
  split
  · rw [List.getElem?_append_left (by simp only [List.length_drop]; omega), List.getElem?_drop]
    congr 1
    omega
  · rw [List.getElem?_append_right (by simp only [List.length_drop]; omega), List.length_drop]

/-- `readOr` answers a next state only if the read is inside the space. -/
theorem readOr_eq_next {α : Type} {sp : Space} {xs : List α} {pos n : Nat} {go : List α → Out} {t : State} :
    readOr sp xs pos n go = .next t ↔ ∃ v, memRead xs pos n = some v ∧ go v = .next t := by
  unfold readOr
  cases memRead xs pos n <;> simp

/-- `writeOr` answers a next state only if the write is inside the space. -/
theorem writeOr_eq_next {α : Type} {sp : Space} {xs v : List α} {pos : Nat} {go : List α → Out} {t : State} :
    writeOr sp xs pos v go = .next t ↔ ∃ ys, memWrite xs pos v = some ys ∧ go ys = .next t := by
  unfold writeOr
  cases memWrite xs pos v <;> simp

/-- `shiftOr` answers a next state only if the tail fits the space. -/
theorem shiftOr_eq_next {α : Type} {sp : Space} {xs tail : List α} {go : List α → Out} {t : State} :
    shiftOr sp xs tail go = .next t ↔ ∃ ys, shiftIn xs tail = some ys ∧ go ys = .next t := by
  unfold shiftOr
  cases shiftIn xs tail <;> simp

/-- `readOr` faults only outside the space, or where what follows does. -/
theorem readOr_eq_fault {α : Type} {sp : Space} {xs : List α} {pos n : Nat} {go : List α → Out} {f : Fault} :
    readOr sp xs pos n go = .fault f ↔
      (xs.length < pos + n ∧ f = .outOfRange sp pos n xs.length) ∨ ∃ v, memRead xs pos n = some v ∧ go v = .fault f := by
  unfold readOr
  cases h : memRead xs pos n with
  | none => simp [memRead_eq_none.1 h, eq_comm]
  | some v => simp [Nat.not_lt.2 (memRead_eq_some.1 h).1]

/-- Element `j` of a padded list after `setPad`. -/
theorem setPad_getD {α : Type} (d v : α) (xs : List α) (k j : Nat) :
    (setPad d v xs k).getD j d = if j = k then v else xs.getD j d := by
  induction k generalizing xs j with
  | zero => cases xs <;> cases j <;> simp [setPad]
  | succ k ih =>
    cases xs with
    | nil =>
      cases j with
      | zero => simp [setPad]
      | succ j => simpa [setPad] using ih [] j
    | cons x xs =>
      cases j with
      | zero => simp [setPad]
      | succ j => simpa [setPad] using ih xs j

/-! Correlations. -/

@[simp] theorem corr_nil_left (s : List Soft) : corr [] s = 0 := by cases s <;> rfl

@[simp] theorem corr_nil_right (b : Bits) : corr b [] = 0 := by cases b <;> rfl

@[simp] theorem corr_cons (b : Bool) (bs : Bits) (s : Soft) (ss : List Soft) :
    corr (b :: bs) (s :: ss) = soft b s + corr bs ss := rfl

@[simp] theorem soft_true (s : Soft) : soft true s = s := rfl

@[simp] theorem soft_false (s : Soft) : soft false s = -s := rfl

/-! The upward scan and the correlation. -/

/-- What a scan finds, from any position on and with the best so far. -/
theorem scanFrom_spec (score : Nat → Int) (lo fuel p best : Nat) (hb : lo ≤ best) (hbp : best < p)
    (hmax : ∀ q, lo ≤ q → q < p → score q ≤ score best) (hleast : ∀ q, lo ≤ q → q < best → score q < score best) :
    ∃ o, scanFrom score fuel p best (score best) = (o, score o) ∧ lo ≤ o ∧ o < p + fuel ∧
      (∀ q, lo ≤ q → q < p + fuel → score q ≤ score o) ∧ ∀ q, lo ≤ q → q < o → score q < score o := by
  induction fuel generalizing p best with
  | zero => exact ⟨best, rfl, hb, by omega, fun q h h' => hmax q h (by omega), hleast⟩
  | succ n ih =>
    unfold scanFrom
    split
    · next hgt =>
      obtain ⟨o, h1, h2, h3, h4, h5⟩ := ih (p + 1) p (by omega) (by omega)
        (fun q h h' => by rcases Nat.lt_or_ge q p with hq | hq
                          · exact (lt_of_le_of_lt (hmax q h hq) hgt).le
                          · exact le_of_eq (by rw [show q = p by omega]))
        (fun q h h' => lt_of_le_of_lt (hmax q h h') hgt)
      exact ⟨o, h1, h2, by omega, fun q h h' => h4 q h (by omega), h5⟩
    · next hgt =>
      obtain ⟨o, h1, h2, h3, h4, h5⟩ := ih (p + 1) best hb (by omega)
        (fun q h h' => by rcases Nat.lt_or_ge q p with hq | hq
                          · exact hmax q h hq
                          · rw [show q = p by omega]; exact not_lt.1 hgt) hleast
      exact ⟨o, h1, h2, by omega, fun q h h' => h4 q h (by omega), h5⟩

/-- The scan finds the least position of the greatest score (R143, R161). -/
theorem scanMax_leastMax (score : Nat → Int) (lo n : Nat) :
    LeastMax score lo (lo + n) (scanMax score lo n).1 (scanMax score lo n).2 := by
  obtain ⟨o, h1, h2, h3, h4, h5⟩ := scanFrom_spec score lo n (lo + 1) lo (le_refl _) (by omega)
    (fun q h h' => le_of_eq (by rw [show q = lo by omega])) (fun q h h' => absurd h' (by omega))
  unfold scanMax
  rw [h1]
  exact ⟨h2, by show o ≤ lo + n; omega, rfl, fun q h h' => h4 q h (by omega), h5⟩

/-- A correlation is the sum of R143 and R160. -/
theorem corr_eq_softSum (b : Bits) (s : List Soft) (n : Nat) (hb : b.length = n) (hs : n ≤ s.length) :
    corr b s = softSum n (fun i => b.getD i false) (fun i => s.getD i 0) := by
  induction b generalizing s n with
  | nil => subst hb; simp [softSum]
  | cons x xs ih =>
    cases s with
    | nil => simp at hb hs; omega
    | cons y ys =>
      subst hb
      rw [corr_cons, ih ys xs.length rfl (by simpa using hs)]
      simp [softSum, List.range_succ_eq_map, Function.comp_def]

/-- The score of a candidate length is the sum of R143. -/
theorem lenScore_eq_spec (g : Cfg) (x : List Soft) (par : Bool) (v : Nat) (hx : x.length = 23) :
    lenScore g x par v = lenScoreSpec g x par v := by
  unfold lenScore lenScoreSpec
  rw [corr_eq_softSum _ _ 23 (by simp [codewordBits]) (by omega)]
  rfl

/-! Enabling. -/

/-- A worker's operation answers a next state in one of two ways: it is not enabled and nothing changes, or its body
answers. -/
theorem workerStep_eq_next {k : Nat} {st : RxSt} {s t : State} {body : RxChan → Out} :
    workerStep k st s body = .next t ↔
      ∃ r, s.rx[k]? = some r ∧
        ((¬ (s.running = true ∧ r.st = st) ∧ t = s) ∨ (s.running = true ∧ r.st = st ∧ body r = .next t)) := by
  unfold workerStep
  cases s.rx[k]? with
  | none => simp
  | some r =>
    by_cases h : s.running = true <;> by_cases h' : r.st = st <;>
      simp [h, h', @eq_comm State s t]

/-- A worker's operation faults only where it is enabled and its body faults. -/
theorem workerStep_eq_fault {k : Nat} {st : RxSt} {s : State} {body : RxChan → Out} {f : Fault} :
    workerStep k st s body = .fault f ↔
      ∃ r, s.rx[k]? = some r ∧ s.running = true ∧ r.st = st ∧ body r = .fault f := by
  unfold workerStep
  cases s.rx[k]? with
  | none => simp
  | some r => by_cases h : s.running = true <;> by_cases h' : r.st = st <;> simp [h, h']

/-- A worker's enabled operation is its body. -/
theorem workerStep_enabled {k : Nat} {st : RxSt} {s : State} {body : RxChan → Out} {r : RxChan}
    (hr : s.rx[k]? = some r) (hs : s.running = true) (hst : r.st = st) : workerStep k st s body = body r := by
  simp [workerStep, hr, hs, hst]

/-- A scheduler's operation answers a next state in one of two ways. -/
theorem schedStep_eq_next {ph : Phase} {s t : State} {body : Out} :
    schedStep ph s body = .next t ↔
      (¬ (s.running = true ∧ s.sch.ph = ph) ∧ t = s) ∨ (s.running = true ∧ s.sch.ph = ph ∧ body = .next t) := by
  unfold schedStep
  by_cases h : s.running = true <;> by_cases h' : s.sch.ph = ph <;> simp [h, h', @eq_comm State s t]

/-- A scheduler's operation faults only where it is enabled and its body faults. -/
theorem schedStep_eq_fault {ph : Phase} {s : State} {body : Out} {f : Fault} :
    schedStep ph s body = .fault f ↔ s.running = true ∧ s.sch.ph = ph ∧ body = .fault f := by
  unfold schedStep
  by_cases h : s.running = true <;> by_cases h' : s.sch.ph = ph <;> simp [h, h']

/-- A scheduler's enabled operation is its body. -/
theorem schedStep_enabled {ph : Phase} {s : State} {body : Out} (hs : s.running = true) (hp : s.sch.ph = ph) :
    schedStep ph s body = body := by
  simp [schedStep, hs, hp]

/-- `drainTarget` has three ways on: no such channel, the channel is to be drained, or it is skipped. -/
theorem drainTarget_cases (s : State) (skip : Out) (go : TxChan → Out) :
    (s.tx[s.sch.ci]? = none ∧ drainTarget s skip go = .fault (.outOfRange .txq s.sch.ci 1 s.tx.length)) ∨
      ∃ t, s.tx[s.sch.ci]? = some t ∧
        ((s.sch.evWr.getD s.sch.ci false = true ∧ t.alive = true ∧ drainTarget s skip go = go t) ∨
          ((s.sch.evWr.getD s.sch.ci false = false ∨ t.alive = false) ∧ drainTarget s skip go = skip)) := by
  unfold drainTarget
  cases s.tx[s.sch.ci]? with
  | none => simp
  | some t => cases h : s.sch.evWr.getD s.sch.ci false <;> cases h' : t.alive <;> simp [h']

/-! Causes. -/

/-- Taking a cause never touches the scheduler, the configuration, the environment or the model's own fields. -/
theorem raiseCause_frame (c : Cause) (op : Byte) (ch : Option Nat) (info : List Int) (s : State) :
    (raiseCause c op ch info s).sch = s.sch ∧ (raiseCause c op ch info s).cfg = s.cfg ∧
      (raiseCause c op ch info s).env = s.env ∧ (raiseCause c op ch info s).chkPending = s.chkPending ∧
      (raiseCause c op ch info s).ret = s.ret ∧ (raiseCause c op ch info s).script = s.script ∧
      (raiseCause c op ch info s).turn = s.turn ∧ (raiseCause c op ch info s).freeCtr = s.freeCtr ∧
      (raiseCause c op ch info s).log = s.log ++ [.trace { op := op, ch := ch, code := c, info := info }] := by
  unfold raiseCause
  cases c <;> cases ch <;> simp [Cause.cls]

/-- A cause that is no error, or a transient one, only leaves its trace event (R241, R243, R249). -/
theorem raiseCause_mild {c : Cause} (h : c.cls = .outcome ∨ c.cls = .transient) (op : Byte) (ch : Option Nat)
    (info : List Int) (s : State) : raiseCause c op ch info s = s.traceEv op ch c info := by
  unfold raiseCause
  rcases h with h | h <;> rw [h]

/-- A fatal cause sets `fatal` and its code (R249). -/
theorem raiseCause_fatal {c : Cause} (h : c.cls = .fatal) (op : Byte) (ch : Option Nat) (info : List Int) (s : State) :
    raiseCause c op ch info s = (s.setFatal c).traceEv op ch c info := by
  unfold raiseCause
  rw [h]

/-- A cause terminal for a receive channel halts that worker (R249). -/
theorem raiseCause_terminalRx {c : Cause} (h : c.cls = .terminalRx) (op : Byte) (k : Nat) (info : List Int) (s : State) :
    raiseCause c op (some k) info s = (s.haltRx k c).traceEv op (some k) c info := by
  unfold raiseCause
  rw [h]

/-- A cause terminal for a transmit channel kills that channel (R249). -/
theorem raiseCause_terminalTx {c : Cause} (h : c.cls = .terminalTx) (op : Byte) (k : Nat) (info : List Int) (s : State) :
    raiseCause c op (some k) info s = (s.killTx k).traceEv op (some k) c info := by
  unfold raiseCause
  rw [h]

end Sys2Proof.Machine
end

