-- ==== Sys2Proof/Laws/Memory.lean ====
section
/-! SUPPORT. The canonical form of the buffers (Memory.wf): what it says, that every memory operation keeps it, and that
reset has it. -/

namespace Sys2Proof.Machine

/-- The buffers of one receive channel have their length, and its soft decisions their width. -/
def RxShape (g : Cfg) (k : Nat) (r : RxChan) : Prop :=
  r.bits.length = g.wRx k ∧ r.sd.length = g.wRx k ∧ ∀ x ∈ r.sd, g.softOk x = true

theorem all_range_getElem? {α : Type} (xs : List α) (p : Nat → α → Bool) :
    ((List.range xs.length).all fun k => (xs[k]?).all (p k)) = true ↔ ∀ k x, xs[k]? = some x → p k x = true := by
  simp only [List.all_eq_true, List.mem_range]
  constructor
  · intro h k x hx
    have hk : k < xs.length := (List.getElem?_eq_some_iff.1 hx).1
    simpa [hx] using h k hk
  · intro h k hk
    simpa [List.getElem?_eq_getElem hk] using h k xs[k] (List.getElem?_eq_getElem hk)

/-- What `Memory.wf` says. -/
theorem memory_wf_iff (s : State) : Memory.wf s = true ↔
    s.rx.length = s.cfg.nrx ∧ s.tx.length = s.cfg.ntx ∧ (∀ k r, s.rx[k]? = some r → RxShape s.cfg k r) ∧
      (∀ c t, s.tx[c]? = some t → t.q.length = s.cfg.wTx c) ∧ s.sch.pendData.length = mtu := by
  simp only [Memory.wf, Bool.and_eq_true, decide_eq_true_eq,
    all_range_getElem? s.rx (fun k r => decide (r.bits.length = s.cfg.wRx k) && decide (r.sd.length = s.cfg.wRx k) &&
      r.sd.all s.cfg.softOk), all_range_getElem? s.tx (fun c t => decide (t.q.length = s.cfg.wTx c)), RxShape,
    List.all_eq_true, and_assoc]

/-- Replacing a receive channel by one of the same shape keeps the canonical form. -/
theorem setRx_keeps_wf {s : State} {k : Nat} {r : RxChan} (h : Memory.wf s = true) (hr : RxShape s.cfg k r) :
    Memory.wf (s.setRx k r) = true := by
  rw [memory_wf_iff] at h ⊢
  obtain ⟨h1, h2, h3, h4, h5⟩ := h
  refine ⟨by simpa using h1, by simpa using h2, ?_, by simpa using h4, by simpa using h5⟩
  intro j x hx
  simp only [State.setRx_rx, List.getElem?_set, State.setRx_cfg] at hx ⊢
  split at hx
  · next hjk =>
    split at hx
    · obtain rfl := Option.some.inj hx
      exact hjk ▸ hr
    · cases hx
  · exact h3 j x hx

/-- Replacing a transmit channel by one whose queue has its length keeps the canonical form. -/
theorem setTx_keeps_wf {s : State} {c : Nat} {t : TxChan} (h : Memory.wf s = true) (ht : t.q.length = s.cfg.wTx c) :
    Memory.wf (s.setTx c t) = true := by
  rw [memory_wf_iff] at h ⊢
  obtain ⟨h1, h2, h3, h4, h5⟩ := h
  refine ⟨by simpa using h1, by simpa using h2, by simpa using h3, ?_, by simpa using h5⟩
  intro j x hx
  simp only [State.setTx_tx, List.getElem?_set, State.setTx_cfg] at hx ⊢
  split at hx
  · next hjc =>
    split at hx
    · obtain rfl := Option.some.inj hx
      exact hjc ▸ ht
    · cases hx
  · exact h4 j x hx

/-- Replacing the scheduler by one whose slot has its bytes keeps the canonical form. -/
theorem setSch_keeps_wf {s : State} {q : Sched} (h : Memory.wf s = true) (hq : q.pendData.length = mtu) :
    Memory.wf (s.setSch q) = true := by
  rw [memory_wf_iff] at h ⊢
  obtain ⟨h1, h2, h3, h4, _⟩ := h
  exact ⟨h1, h2, h3, h4, hq⟩

/-- The canonical form does not depend on what the environment shows, the log or the model's own fields. -/
theorem memory_wf_congr {s t : State} (hrx : t.rx = s.rx) (htx : t.tx = s.tx)
    (hp : t.sch.pendData.length = s.sch.pendData.length) (hc : t.cfg = s.cfg) : Memory.wf t = Memory.wf s := by
  simp only [Memory.wf, hrx, htx, hp, hc]

/-- A write keeps the length a space has. -/
theorem memWrite_keeps_length {α : Type} {xs v ys : List α} {pos n : Nat} (h : memWrite xs pos v = some ys)
    (hn : xs.length = n) : ys.length = n := (memWrite_length h).trans hn

/-- A shift keeps the length a space has. -/
theorem shiftIn_keeps_length {α : Type} {xs tail ys : List α} {n : Nat} (h : shiftIn xs tail = some ys)
    (hn : xs.length = n) : ys.length = n := (shiftIn_length h).trans hn

/-- A write of soft decisions of `SD_W` bits into such a window leaves one. -/
theorem memWrite_keeps_softOk {g : Cfg} {xs v ys : List Soft} {pos : Nat} (h : memWrite xs pos v = some ys)
    (hx : ∀ x ∈ xs, g.softOk x = true) (hv : ∀ x ∈ v, g.softOk x = true) : ∀ x ∈ ys, g.softOk x = true := by
  obtain ⟨_, rfl⟩ := memWrite_eq_some.1 h
  intro x hm
  rcases List.mem_append.1 hm with hm | hm
  · rcases List.mem_append.1 hm with hm | hm
    · exact hx x (List.mem_of_mem_take hm)
    · exact hv x hm
  · exact hx x (List.mem_of_mem_drop hm)

/-- A shift that brings soft decisions of `SD_W` bits into such a window leaves one. -/
theorem shiftIn_keeps_softOk {g : Cfg} {xs tail ys : List Soft} (h : shiftIn xs tail = some ys)
    (hx : ∀ x ∈ xs, g.softOk x = true) (hv : ∀ x ∈ tail, g.softOk x = true) : ∀ x ∈ ys, g.softOk x = true := by
  obtain ⟨_, rfl⟩ := shiftIn_eq_some.1 h
  intro x hm
  rcases List.mem_append.1 hm with hm | hm
  · exact hx x (List.mem_of_mem_drop hm)
  · exact hv x hm

/-- 0 fits every width. -/
theorem softOk_zero (g : Cfg) : g.softOk 0 = true := by
  have h : (0 : Int) < 2 ^ (g.sdW - 1) := by positivity
  simp only [Cfg.softOk, Bool.and_eq_true, decide_eq_true_eq]
  exact ⟨neg_nonpos.2 h.le, h⟩

@[simp] theorem fillerBits_length (m : Nat) : (fillerBits m).length = m := by simp [fillerBits]

theorem resetRx_shape (g : Cfg) (k : Nat) : RxShape g k (resetRx g k) := by
  refine ⟨by simp [resetRx], by simp [resetRx], ?_⟩
  intro x hx
  rw [(List.mem_replicate.1 hx).2]
  exact softOk_zero g

/-- Reset leaves every buffer in canonical form, whatever the slot's bytes are, if there are MTU of them. -/
theorem resetBlock_wf (g : Cfg) (pend : List Byte) (s : State) (hp : pend.length = mtu) :
    Memory.wf (resetBlock g pend s) = true := by
  rw [memory_wf_iff]
  refine ⟨by simp [resetBlock], by simp [resetBlock], ?_, ?_, by simpa [resetBlock, resetSched] using hp⟩
  · intro k r hr
    simp only [resetBlock, List.getElem?_map, Option.map_eq_some_iff, List.getElem?_eq_some_iff,
      List.getElem_range] at hr
    obtain ⟨a, ⟨_, rfl⟩, rfl⟩ := hr
    exact resetRx_shape g k
  · intro c t ht
    simp only [resetBlock, List.getElem?_map, Option.map_eq_some_iff, List.getElem?_eq_some_iff,
      List.getElem_range] at ht
    obtain ⟨a, ⟨_, rfl⟩, rfl⟩ := ht
    simp [resetTx, resetBlock]

/-- The state after reset has the canonical form. -/
theorem reset_wf : Memory.wf State.reset = true :=
  (memory_wf_congr (s := resetBlock testCfg resetPend State.reset) rfl rfl rfl rfl).trans
    (resetBlock_wf testCfg resetPend State.reset (by simp [resetPend]))

end Sys2Proof.Machine
end

