-- ==== Sys2Proof/Laws/PerInstr.lean ====
section
/-! SUPPORT. Facts about every operation as syntax, one lemma per constructor: the word of a well-formed operation is no
longer than `longestWord`, so that a fetch, which reads 0 past the slot, never runs out of bytes. -/

namespace Sys2Proof.Laws

set_option Elab.async false

@[simp] theorem leBytes_length (n x : Nat) : (leBytes n x).length = n := by
  induction n generalizing x with
  | zero => rfl
  | succ n ih => simp [leBytes, ih]

@[simp] theorem softBytes_length (s : Soft) : (softBytes s).length = 4 := by simp [softBytes]

@[simp] theorem flatMap_softBytes_length (s : List Soft) : (s.flatMap softBytes).length = 4 * s.length := by
  induction s with
  | nil => rfl
  | cons x xs ih => simp only [List.flatMap_cons, List.length_append, softBytes_length, ih, List.length_cons]; omega

namespace WordBounded

/-- The word of the operation is bounded by `longestWord`, if the operation is well formed. -/
def Statement (i : Instr) : Prop := i.wf = true → (encode i).length ≤ longestWord

theorem golayEnc (v : LengthWord) : Statement (.golayEnc v) := by
  intro h
  simp [Instr.wf, encode, encodeOperands, longestWord] at h ⊢

theorem lenEnc (len : Nat) : Statement (.lenEnc len) := by
  intro h
  simp [Instr.wf, encode, encodeOperands, longestWord] at h ⊢

theorem lenIlv (a : Codeword) (b : Codeword) : Statement (.lenIlv a b) := by
  intro h
  simp [Instr.wf, encode, encodeOperands, longestWord] at h ⊢

theorem lenDec (s : List Soft) (par : Bool) : Statement (.lenDec s par) := by
  intro h
  simp [Instr.wf, encode, encodeOperands, longestWord] at h ⊢
  omega

theorem uwCorr (sd : List Soft) (o : Nat) : Statement (.uwCorr sd o) := by
  intro h
  simp [Instr.wf, fits16, encode, encodeOperands, longestWord, uwLen] at h ⊢
  omega

theorem uwSearch (sd : List Soft) (lo : Nat) (hi : Nat) : Statement (.uwSearch sd lo hi) := by
  intro h
  simp [Instr.wf, fits16, encode, encodeOperands, longestWord, uwLen] at h ⊢
  omega

theorem scr (b : Byte) : Statement (.scr b) := by
  intro h
  simp [Instr.wf, encode, encodeOperands, longestWord] at h ⊢

theorem ser (p : Packet) : Statement (.ser p) := by
  intro h
  simp [Instr.wf, fits16, encode, encodeOperands, longestWord] at h ⊢
  omega

theorem deser (bits : Bits) : Statement (.deser bits) := by
  intro h
  simp [Instr.wf, fits16, encode, encodeOperands, longestWord] at h ⊢
  omega

theorem frmEnc (p : Packet) (lead : Bool) : Statement (.frmEnc p lead) := by
  intro h
  simp [Instr.wf, encode, encodeOperands, longestWord, mtu] at h ⊢
  omega

theorem frmDec (bits : Bits) (sd : List Soft) (o : Nat) : Statement (.frmDec bits sd o) := by
  intro h
  simp [Instr.wf, fits16, encode, encodeOperands, longestWord, frmDecMinOffset] at h ⊢
  omega

theorem filler (m : Nat) : Statement (.filler m) := by
  intro h
  simp [Instr.wf, encode, encodeOperands, longestWord] at h ⊢

theorem rxFill (k : Nat) : Statement (.rxFill k) := by
  intro h
  simp [Instr.wf, encode, encodeOperands, longestWord] at h ⊢

theorem rxSearch (k : Nat) : Statement (.rxSearch k) := by
  intro h
  simp [Instr.wf, encode, encodeOperands, longestWord] at h ⊢

theorem rxValidate (k : Nat) : Statement (.rxValidate k) := by
  intro h
  simp [Instr.wf, encode, encodeOperands, longestWord] at h ⊢

theorem rxExtract (k : Nat) : Statement (.rxExtract k) := by
  intro h
  simp [Instr.wf, encode, encodeOperands, longestWord] at h ⊢

theorem rxShift (k : Nat) : Statement (.rxShift k) := by
  intro h
  simp [Instr.wf, encode, encodeOperands, longestWord] at h ⊢

theorem rxHalt (k : Nat) : Statement (.rxHalt k) := by
  intro h
  simp [Instr.wf, encode, encodeOperands, longestWord] at h ⊢

theorem txWait : Statement .txWait := by
  intro h
  simp [Instr.wf, encode, encodeOperands, longestWord] at h ⊢

theorem txDevrd : Statement .txDevrd := by
  intro h
  simp [Instr.wf, encode, encodeOperands, longestWord] at h ⊢

theorem txAssign : Statement .txAssign := by
  intro h
  simp [Instr.wf, encode, encodeOperands, longestWord] at h ⊢

theorem txDrain : Statement .txDrain := by
  intro h
  simp [Instr.wf, encode, encodeOperands, longestWord] at h ⊢

theorem txFail : Statement .txFail := by
  intro h
  simp [Instr.wf, encode, encodeOperands, longestWord] at h ⊢

theorem txAbort : Statement .txAbort := by
  intro h
  simp [Instr.wf, encode, encodeOperands, longestWord] at h ⊢

theorem sysReset : Statement .sysReset := by
  intro h
  simp [Instr.wf, encode, encodeOperands, longestWord] at h ⊢

theorem sysCfgchk : Statement .sysCfgchk := by
  intro h
  simp [Instr.wf, encode, encodeOperands, longestWord] at h ⊢

theorem lenVote : Statement .lenVote := by
  intro h
  simp [Instr.wf, encode, encodeOperands, longestWord] at h ⊢

theorem uwHard : Statement .uwHard := by
  intro h
  simp [Instr.wf, encode, encodeOperands, longestWord] at h ⊢

theorem wireUw : Statement .wireUw := by
  intro h
  simp [Instr.wf, encode, encodeOperands, longestWord] at h ⊢

theorem wirePayloadByte (b : Byte) : Statement (.wirePayloadByte b) := by
  intro h
  simp [Instr.wf, encode, encodeOperands, longestWord] at h ⊢

theorem wireFooter (len : Nat) : Statement (.wireFooter len) := by
  intro h
  simp [Instr.wf, encode, encodeOperands, longestWord] at h ⊢

theorem wireFiller : Statement .wireFiller := by
  intro h
  simp [Instr.wf, encode, encodeOperands, longestWord] at h ⊢

theorem wireFrameL1 (b : Byte) : Statement (.wireFrameL1 b) := by
  intro h
  simp [Instr.wf, encode, encodeOperands, longestWord] at h ⊢

theorem wireFrameNoleadL1 (b : Byte) : Statement (.wireFrameNoleadL1 b) := by
  intro h
  simp [Instr.wf, encode, encodeOperands, longestWord] at h ⊢

theorem wordLength (len : Nat) : Statement (.wordLength len) := by
  intro h
  simp [Instr.wf, encode, encodeOperands, longestWord] at h ⊢

theorem wordCodeword (d : LengthWord) : Statement (.wordCodeword d) := by
  intro h
  simp [Instr.wf, encode, encodeOperands, longestWord] at h ⊢

end WordBounded

end Sys2Proof.Laws
end

