-- ==== Sys2Proof/Tests/Slice0.lean ====
section
/-! SUPPORT. The model's own tests. Expected values are those of spec/95_test_vectors.md (V<n>, P<n>) or written out by hand
from the rule named. Then one witness for every statement of Certificates/Slice0/Obligations.lean that has hypotheses. -/

namespace Sys2Proof.Tests

set_option Elab.async false

open Sys2Proof Sys2Proof.Machine

/-! WellFormed: for each check a term it refuses. -/

theorem test_wf_lenEnc_above_mtu : (Instr.lenEnc 1601).wf = false := by decide
theorem test_wf_lenDec_too_few : (Instr.lenDec [] false).wf = false := by decide
theorem test_wf_lenDec_too_wide : (Instr.lenDec (2147483648 :: List.replicate 22 0) false).wf = false := by decide
theorem test_wf_uwCorr_past_end : (Instr.uwCorr (List.replicate 48 0) 1).wf = false := by decide
theorem test_wf_uwCorr_too_wide : (Instr.uwCorr (-2147483649 :: List.replicate 47 0) 0).wf = false := by decide
theorem test_wf_uwCorr_offset_field (sd : List Soft) (h : sd.length = 65584) : (Instr.uwCorr sd 65536).wf = false := by
  simp [Instr.wf, fits16, uwLen, h]
theorem test_wf_uwCorr_rest_field (sd : List Soft) (h : sd.length = 65584) : (Instr.uwCorr sd 0).wf = false := by
  simp [Instr.wf, fits16, uwLen, h]
theorem test_wf_uwSearch_empty_range : (Instr.uwSearch (List.replicate 50 0) 1 0).wf = false := by decide
theorem test_wf_uwSearch_past_end : (Instr.uwSearch (List.replicate 50 0) 0 3).wf = false := by decide
theorem test_wf_uwSearch_too_wide : (Instr.uwSearch (2147483648 :: List.replicate 47 0) 0 0).wf = false := by decide
theorem test_wf_uwSearch_lo_field (sd : List Soft) (h : sd.length = 65584) : (Instr.uwSearch sd 65536 65536).wf = false := by
  simp [Instr.wf, fits16, uwLen, h]
theorem test_wf_uwSearch_range_field (sd : List Soft) (h : sd.length = 65584) : (Instr.uwSearch sd 0 65536).wf = false := by
  simp [Instr.wf, fits16, uwLen, h]
theorem test_wf_uwSearch_rest_field (sd : List Soft) (h : sd.length = 65584) : (Instr.uwSearch sd 0 0).wf = false := by
  simp [Instr.wf, fits16, uwLen, h]
theorem test_wf_ser_field (p : Packet) (h : p.length = 65536) : (Instr.ser p).wf = false := by
  simp [Instr.wf, fits16, h]
theorem test_wf_deser_part_byte : (Instr.deser (List.replicate 7 false)).wf = false := by decide
theorem test_wf_deser_field (b : Bits) (h : b.length = 524288) : (Instr.deser b).wf = false := by
  simp [Instr.wf, fits16, h]
theorem test_wf_frmEnc_above_mtu (p : Packet) (h : p.length = 1601) : (Instr.frmEnc p true).wf = false := by
  simp [Instr.wf, mtu, h]
theorem test_wf_frmDec_lengths_differ : (Instr.frmDec [true] [] 0).wf = false := by decide
theorem test_wf_frmDec_offset_low (b : Bits) (sd : List Soft) (hb : b.length = 12846) (h : sd.length = 12846) :
    (Instr.frmDec b sd 12845).wf = false := by simp [Instr.wf, fits16, frmDecMinOffset, hb, h]
theorem test_wf_frmDec_offset_past_end (b : Bits) (sd : List Soft) (hb : b.length = 12846) (h : sd.length = 12846) :
    (Instr.frmDec b sd 12847).wf = false := by simp [Instr.wf, fits16, frmDecMinOffset, hb, h]
theorem test_wf_frmDec_offset_field (b : Bits) (sd : List Soft) (hb : b.length = 78382) (h : sd.length = 78382) :
    (Instr.frmDec b sd 78382).wf = false := by simp [Instr.wf, fits16, frmDecMinOffset, hb, h]
theorem test_wf_frmDec_rest_field (b : Bits) (sd : List Soft) (hb : b.length = 78382) (h : sd.length = 78382) :
    (Instr.frmDec b sd 12846).wf = false := by simp [Instr.wf, fits16, frmDecMinOffset, hb, h]
theorem test_wf_frmDec_too_wide (b : Bits) (sd : List Soft) (o : Nat) :
    (Instr.frmDec b (2147483648 :: sd) o).wf = false := by simp [Instr.wf, softFits]

theorem test_wf_filler_field : (Instr.filler 65536).wf = false := by decide
theorem test_wf_rxFill_field : (Instr.rxFill 65536).wf = false := by decide
theorem test_wf_rxSearch_field : (Instr.rxSearch 65536).wf = false := by decide
theorem test_wf_rxValidate_field : (Instr.rxValidate 65536).wf = false := by decide
theorem test_wf_rxExtract_field : (Instr.rxExtract 65536).wf = false := by decide
theorem test_wf_rxShift_field : (Instr.rxShift 65536).wf = false := by decide
theorem test_wf_rxHalt_field : (Instr.rxHalt 65536).wf = false := by decide
theorem test_wf_wireFooter_above_mtu : (Instr.wireFooter 1601).wf = false := by decide
theorem test_wf_wordLength_above_mtu : (Instr.wordLength 1601).wf = false := by decide

/-! Decode: for every constructor a word written out from its number in R121 (0x80 to 0x87 for the patterns, entry 4) and
the operand layout of Decode.lean (entry 3). Bytes a slot does not list read as 0. -/

theorem test_decode_golayEnc : fetchWord [0x01, 0xBC, 0x0A] = .ok (.golayEnc 0xABC) := by decide +kernel
theorem test_decode_golayEnc_wide : fetchWord [0x01, 0x00, 0x10] = .error .badOperand := by decide +kernel
theorem test_decode_lenEnc : fetchWord [0x02, 0x40, 0x06] = .ok (.lenEnc 1600) := by decide +kernel
theorem test_decode_lenEnc_above : fetchWord [0x02, 0x41, 0x06] = .error .badOperand := by decide +kernel
theorem test_decode_lenIlv :
    fetchWord [0x03, 0xEA, 0x18, 0x00, 0x15, 0xE7, 0x7F] = .ok (.lenIlv 0x0018EA 0x7FE715) := by decide +kernel
theorem test_decode_lenDec :
    fetchWord [0x04, 0x01, 0xFF, 0xFF, 0xFF, 0xFF, 0x05] = .ok (.lenDec (-1 :: 5 :: List.replicate 21 0) true) := by
  decide +kernel
theorem test_decode_lenVote : fetchWord [0x05] = .ok .lenVote := by decide +kernel
theorem test_decode_uwCorr :
    fetchWord [0x10, 0x01, 0x00, 0x00, 0x00, 0x05] = .ok (.uwCorr (5 :: List.replicate 48 0) 1) := by decide +kernel
theorem test_decode_uwSearch :
    fetchWord [0x11, 0x01, 0x00, 0x02, 0x00, 0x00, 0x00, 0x80, 0xFF, 0xFF, 0xFF] =
      .ok (.uwSearch (-128 :: List.replicate 50 0) 1 3) := by decide +kernel
theorem test_decode_uwHard : fetchWord [0x12] = .ok .uwHard := by decide +kernel
theorem test_decode_scr : fetchWord [0x20, 0xFF] = .ok (.scr 0xFF) := by decide +kernel
theorem test_decode_ser : fetchWord [0x21, 0x03, 0x00, 0x54, 0x57, 0x56] = .ok (.ser [0x54, 0x57, 0x56]) := by
  decide +kernel
theorem test_decode_deser :
    fetchWord [0x22, 0x01, 0x00, 1, 1, 1, 0, 1, 0, 1, 0] =
      .ok (.deser [true, true, true, false, true, false, true, false]) := by decide +kernel
theorem test_decode_deser_bad_bit : fetchWord [0x22, 0x01, 0x00, 2] = .error .badOperand := by decide +kernel
theorem test_decode_frmEnc : fetchWord [0x23, 0x01, 0x01, 0x00, 0xAA] = .ok (.frmEnc [0xAA] true) := by decide +kernel
theorem test_decode_frmDec :
    (fetchWord [0x24, 0x00, 0x00, 0x00, 0x00]).map opNumber = .ok 0x24 := by decide +kernel
theorem test_decode_filler : fetchWord [0x25, 0x07, 0x01] = .ok (.filler 263) := by decide +kernel
theorem test_decode_rxFill : fetchWord [0x30, 0x01, 0x00] = .ok (.rxFill 1) := by decide +kernel
theorem test_decode_rxSearch : fetchWord [0x31, 0x02, 0x00] = .ok (.rxSearch 2) := by decide +kernel
theorem test_decode_rxValidate : fetchWord [0x32] = .ok (.rxValidate 0) := by decide +kernel
theorem test_decode_rxExtract : fetchWord [0x33, 0x03] = .ok (.rxExtract 3) := by decide +kernel
theorem test_decode_rxShift : fetchWord [0x34, 0x00, 0x01] = .ok (.rxShift 256) := by decide +kernel
theorem test_decode_rxHalt : fetchWord [0x35, 0x01] = .ok (.rxHalt 1) := by decide +kernel
theorem test_decode_txWait : fetchWord [0x40] = .ok .txWait := by decide +kernel
theorem test_decode_txDevrd : fetchWord [0x41] = .ok .txDevrd := by decide +kernel
theorem test_decode_txAssign : fetchWord [0x42] = .ok .txAssign := by decide +kernel
theorem test_decode_txDrain : fetchWord [0x43] = .ok .txDrain := by decide +kernel
theorem test_decode_txFail : fetchWord [0x44] = .ok .txFail := by decide +kernel
theorem test_decode_txAbort : fetchWord [0x45] = .ok .txAbort := by decide +kernel
theorem test_decode_sysReset : fetchWord [0x50] = .ok .sysReset := by decide +kernel
theorem test_decode_sysCfgchk : fetchWord [0x51] = .ok .sysCfgchk := by decide +kernel
theorem test_decode_wireUw : fetchWord [0x80] = .ok .wireUw := by decide +kernel
theorem test_decode_wirePayloadByte : fetchWord [0x81, 0xAA] = .ok (.wirePayloadByte 0xAA) := by decide +kernel
theorem test_decode_wireFooter : fetchWord [0x82, 0x03] = .ok (.wireFooter 3) := by decide +kernel
theorem test_decode_wireFiller : fetchWord [0x83] = .ok .wireFiller := by decide +kernel
theorem test_decode_wireFrameL1 : fetchWord [0x84, 0xAA] = .ok (.wireFrameL1 0xAA) := by decide +kernel
theorem test_decode_wireFrameNoleadL1 : fetchWord [0x85, 0xAA] = .ok (.wireFrameNoleadL1 0xAA) := by decide +kernel
theorem test_decode_wordLength : fetchWord [0x86, 0xFF, 0x03] = .ok (.wordLength 1023) := by decide +kernel
theorem test_decode_wordCodeword : fetchWord [0x87, 0xFF, 0x0F] = .ok (.wordCodeword 0xFFF) := by decide +kernel
theorem test_decode_unused_number : fetchWord [0x26] = .error (.unknownOperation 0x26) := by decide +kernel
theorem test_decode_table_word : decodeTableWord 8 0x43 = some .txDrain := by decide +kernel
theorem test_decode_truncated : decode [0x02, 0x40] = .error .truncated := by decide +kernel

/-! Helpers of the tests. -/

/-- The bits of a string of 0 and 1. -/
def bits (x : String) : Bits := x.toList.map fun c => c == '1'

/-- An outcome is a next state that passes a check. -/
def nextIs (o : Out) (p : State → Bool) : Bool :=
  match o with
  | .next t => p t
  | .fault _ => false
  | .refused _ => false

/-- The next state of an outcome, `d` where there is none. -/
def nextOr (o : Out) (d : State) : State :=
  match o with
  | .next t => t
  | .fault _ => d
  | .refused _ => d

/-- An outcome is a next state. -/
def isNext (o : Out) : Bool := nextIs o fun _ => true

theorem next_of_isNext {o : Out} {d : State} (h : isNext o = true) : o = .next (nextOr o d) := by
  cases o <;> simp_all [isNext, nextIs, nextOr]

/-- The fault of an outcome. -/
def faultOf (o : Out) : Option Fault :=
  match o with
  | .next _ => none
  | .fault f => some f
  | .refused _ => none

/-- The refusal of an outcome. -/
def refusalOf (o : Out) : Option Refusal :=
  match o with
  | .next _ => none
  | .fault _ => none
  | .refused r => some r

/-- The operation returned the value `v`. -/
def returns (i : Instr) (v : Ret) : Bool := nextIs (exec i State.reset) fun t => t.ret == v

/-- The test configuration with chunks of one bit. -/
def bitCfg : Cfg := { testCfg with nbRx := [1] }

/-- A machine with the receive channel `r`, chunks of one bit. -/
def rxState (r : RxChan) : State := { State.boot bitCfg (quietEnv testCfg) with rx := [r] }

/-- A machine with the transmit channels `ts`, all of quantum `nb`, and the scheduler `q`. -/
def txState (nb : Nat) (ts : List TxChan) (q : Sched) : State :=
  { State.boot { testCfg with nbRx := [], nbTx := ts.map fun _ => nb } (quietEnv testCfg) with tx := ts, sch := q }

/-- The scheduler after reset, in the phase `ph`. -/
def sched (ph : Phase) : Sched := { resetSched testCfg resetPend with ph := ph }

/-! The pure functions (V2 to V9). -/

theorem test_golayEnc_values : [0x001, 0x003, 0x640, 0x7FF, 0x9BF, 0xFFC, 0xFFF].map (golayEnc testCfg) =
    [0x000C75, 0x0018EA, 0x320265, 0x3FF9C5, 0x4DFD9A, 0x7FE715, 0x7FFFFF] := by decide +kernel
theorem test_golayEnc : returns (.golayEnc 0x641) (.codeword 0x320E10) = true := by decide +kernel
theorem test_lenEnc : returns (.lenEnc 1600) (.pair 0x320265 0x4DFD9A) = true := by decide +kernel
theorem test_lenEnc_refused : exec (.lenEnc 1601) State.reset = .refused .outsideDomain := rfl
theorem test_lenIlv : returns (.lenIlv 0x0018EA 0x7FE715)
    (.bits (bits "0110011001101010010101101001010101010101010101")) = true := by decide +kernel

/-- V5.4 and V5.6: one error lowers the score of 3 by 16, and with four errors 555 is as good as 3 was with three. -/
theorem test_lenScore_errors :
    lenScore testCfg [-8,8,-8,8,8,8,8,8,-8,-8,-8,8,8,-8,-8,-8,-8,-8,-8,-8,-8,-8,-8] false 3 = 168 ∧
    lenScore testCfg [8,8,-8,8,-8,-8,8,8,-8,8,-8,8,8,-8,-8,-8,-8,-8,-8,-8,8,-8,-8] false 555 = 136 ∧
    lenScore testCfg (List.replicate 23 (-8)) true 251 = 72 := by decide +kernel

/-- V5.15, V5.16. -/
theorem test_lenScore_unequal :
    lenScore testCfg [3,-1,2,-7,0,0,5,-5,1,1,-1,-1,4,-4,2,-2,0,7,-7,3,-3,6,-6] false 1354 = 63 ∧
    lenScore testCfg [3,-1,2,-7,0,0,5,-5,1,1,-1,-1,4,-4,2,-2,0,7,-7,3,-3,6,-6] true 671 = 45 := by decide +kernel

theorem corr_zeros (b : Bits) (n : Nat) : corr b (List.replicate n 0) = 0 := by
  induction b generalizing n with
  | nil => simp
  | cons x xs ih => cases n <;> cases x <;> simp [List.replicate_succ, ih]

theorem scanFrom_const (fuel p best : Nat) : scanFrom (fun _ => 0) fuel p best 0 = (best, 0) := by
  induction fuel generalizing p with
  | zero => rfl
  | succ n ih => simp [scanFrom, ih]

/-- V5.3: on zeros every candidate scores 0 and the least wins. -/
theorem test_lenDec_zeros (par : Bool) :
    exec (.lenDec (List.replicate 23 0) par) State.reset = .next (State.reset.setRet (.lenConf 0 0)) := by
  have h : lenScore testCfg (List.replicate 23 0) par = fun _ => 0 := by
    funext v; exact corr_zeros _ 23
  have d : lenDec testCfg (List.replicate 23 0) par = (0, 0) := by
    simp only [lenDec, scanMax, h, scanFrom_const]
  show execLenDec _ _ _ = _
  simp only [execLenDec, List.length_replicate, if_true, show State.reset.cfg = testCfg from rfl, d]

theorem test_lenDec_refused : exec (.lenDec [1] false) State.reset = .refused .outsideDomain := rfl

/-- The first equal maximum wins, a later greater one is taken. -/
theorem test_scanMax : scanMax (fun p => ([3, 7, 7, 2, 9] : List Int).getD p 0) 0 3 = (1, 7) ∧
    scanMax (fun p => ([3, 7, 7, 2, 9] : List Int).getD p 0) 0 4 = (4, 9) := by decide +kernel

/-- The input of V9 at amplitude `a`. -/
def uwInput (a : Int) : List Soft := hardSoft a (filler 46 ++ testCfg.uwBits)

/-- V1. -/
theorem test_uw : testCfg.uwBits = bits "110000101111001000100010101000101100001001001100" := by decide +kernel

/-- V9.1. -/
theorem test_uwCorr : returns (.uwCorr (uwInput 1) 1) (.score 16) = true ∧
    [0, 45, 46].map (uwCorr testCfg (uwInput 1)) = [-16, -2, 48] := by decide +kernel

theorem test_uwCorr_fault :
    faultOf (exec (.uwCorr (uwInput 1) 47) State.reset) = some (.outOfRange .operand 47 48 94) := by decide +kernel

/-- V9.4. -/
theorem test_uwSearch : returns (.uwSearch (uwInput 8) 0 46) (.offset 46 384) = true := by decide +kernel

/-- V9.8. -/
theorem test_uwSearch_zeros : returns (.uwSearch (List.replicate 57 0) 5 9) (.offset 5 0) = true := by decide +kernel

theorem test_scr : returns (.scr 0x80) (.byte 0xD5) = true := by decide +kernel
theorem test_ser : returns (.ser [0x54, 0x57, 0x56]) (.bits (bits "001010101110101001101010")) = true := by decide +kernel
theorem test_deser : returns (.deser (bits "001010101110101001101010")) (.packet [0x54, 0x57, 0x56]) = true := by
  decide +kernel
theorem test_deser_refused : exec (.deser (bits "1")) State.reset = .refused .outsideDomain := rfl
theorem test_filler : returns (.filler 7) (.bits (bits "0101010")) = true := by decide +kernel

/-- V6. -/
theorem test_frmEnc_lead : returns (.frmEnc [0x01, 0x02, 0x03] true) (.bits (bits ("110000101111001000100010101000101100001001001100"
    ++ "001010101110101001101010" ++ "0110011001101010010101101001010101010101010101"
    ++ "110000101111001000100010101000101100001001001100"))) = true := by decide +kernel

/-- V6.4. -/
theorem test_frmEnc_nolead : returns (.frmEnc [0xAA] false) (.bits (bits ("11111111"
    ++ "1001100110101001010110100101010101010101010101" ++ "110000101111001000100010101000101100001001001100"))) = true := by
  decide +kernel

/-- The de-scrambling half of V10.1, and the two halves of a footer (R112). -/
theorem test_unpack : unpack (bits "001010101110101001101010") = [0x01, 0x02, 0x03] ∧
    evens [1, 2, 3, 4] = [1, 3] ∧ odds [1, 2, 3, 4] = [2, 4] ∧ payloadStart 12932 3 = 12862 := by decide +kernel

theorem test_frmDec_fault (b : Bits) :
    exec (.frmDec b [] 45) State.reset = .fault (.outOfRange .operand 45 46 0) := rfl

theorem test_wireUw :
    returns .wireUw (.bits (bits "110000101111001000100010101000101100001001001100")) = true := by decide +kernel
theorem test_wirePayloadByte : returns (.wirePayloadByte 0xAA) (.bits (bits "11111111")) = true := by decide +kernel
theorem test_wireFooter :
    returns (.wireFooter 1600) (.bits (bits "1001100101101001011001010101010101100101101001")) = true := by decide +kernel
theorem test_wireFiller : returns .wireFiller (.bits (bits "01")) = true := by decide +kernel
theorem test_wireFrameL1 : returns (.wireFrameL1 0xAA) (.bits (bits ("110000101111001000100010101000101100001001001100"
    ++ "11111111" ++ "1001100110101001010110100101010101010101010101"
    ++ "110000101111001000100010101000101100001001001100"))) = true := by decide +kernel
theorem test_wireFrameNoleadL1 : returns (.wireFrameNoleadL1 0x00) (.bits (bits ("10101010"
    ++ "1001100110101001010110100101010101010101010101"
    ++ "110000101111001000100010101000101100001001001100"))) = true := by decide +kernel
theorem test_wordLength : returns (.wordLength 1600) (.lengthWord 0x640) = true := by decide +kernel
theorem test_wordCodeword : returns (.wordCodeword 0x003) (.codewordFields 0x003 0x0EA) = true := by decide +kernel
theorem test_reserved : exec .lenVote State.reset = .refused (.reservedOperation "LEN.VOTE") ∧
    exec .uwHard State.reset = .refused (.reservedOperation "UW.HARD") := ⟨rfl, rfl⟩

/-! The receive worker (V11), on windows as short as the operation allows. -/

/-- A receive channel in the state `st` with a short window. -/
def rxChan (st : RxSt) (b : Bits) (sd : List Soft) : RxChan := { resetRx testCfg 0 with st := st, bits := b, sd := sd }

/-- One bit offered on `rxin[0]`. -/
def oneBit : Chunk := { eos := false, n := 1, cbits := [true], csd := [5], ebno := 0 }

/-- The end of stream, with bits that are discarded (R197 a). -/
def eosChunk : Chunk := { eos := true, n := 1, cbits := [true], csd := [5], ebno := 0 }

/-- The machine with reset windows of 12943 positions, and what `rxin[0]` offers. -/
def rxOffering (cs : List Chunk) : State :=
  let s := rxState (resetRx bitCfg 0)
  { s with env := { s.env with rxin := [cs] } }

theorem test_rxFill : nextIs (exec (.rxFill 0) (rxOffering [oneBit])) (fun t =>
    t.rx.map (fun r => (r.st, r.n, r.wr)) == [(.search, 1, 12943)] &&
      t.env.rxin == [[]] && t.log == [.rxin 0 oneBit]) = true := by decide +kernel

theorem test_memWrite : memWrite [1, 2, 3, 4] 1 [7, 8] = some [1, 7, 8, 4] ∧ memWrite [1, 2, 3, 4] 3 [7, 8] = none ∧
    memRead [1, 2, 3, 4] 2 2 = some [3, 4] ∧ memRead [1, 2, 3, 4] 3 2 = none := by decide

theorem test_rxFill_contract :
    refusalOf (exec (.rxFill 0) (rxOffering [{ oneBit with n := 2 }])) = some (.chunkContract 0 2) := by decide +kernel

/-- V11.3: one offset, whatever the window holds. -/
theorem test_rxSearch : nextIs (exec (.rxSearch 0) (rxState { resetRx bitCfg 0 with st := .search, n := 1 }))
    (fun t => t.rx.map (fun r => (r.st, r.cand, r.candScore)) == [(.validate, 12895, 0)]) = true := by decide +kernel

/-- The window that is a footer of zeros alone. -/
def zeroFoot : RxChan := { rxChan .validate [] (List.replicate 46 0) with cand := 46 }

/-- V11.4, on the footer alone: lengths and confidences 0, verdict FILLER. -/
theorem test_rxValidate : exec (.rxValidate 0) (rxState zeroFoot) =
    .next ((rxState zeroFoot).setRx 0 { zeroFoot with st := .extract, verdict := .filler }) := by
  have h (g : Cfg) (par : Bool) : lenDec g (List.replicate 23 0) par = (0, 0) := by
    have e : lenScore g (List.replicate 23 0) par = fun _ => 0 := by funext v; exact corr_zeros _ 23
    simp only [lenDec, scanMax, e, scanFrom_const]
  have e : evens (List.replicate 46 (0 : Soft)) = List.replicate 23 0 := by decide
  have o : odds (List.replicate 46 (0 : Soft)) = List.replicate 23 0 := by decide
  have d (g : Cfg) : footerDecode g (List.replicate 46 0) = ((0, 0), (0, 0)) := by
    unfold footerDecode
    rw [e, o, h, h]
  have v : exec (.rxValidate 0) (rxState zeroFoot) = .next ((rxState zeroFoot).setRx 0
      (validatedRx (rxState zeroFoot).cfg zeroFoot (List.replicate 46 0))) := rfl
  rw [v]
  unfold validatedRx
  rw [d]
  rfl

theorem test_verdictOf : verdictOf 3 5 = .reject ∧ verdictOf 0 0 = .filler ∧ verdictOf 1600 1600 = .accept := by decide

/-- The packet `[0xAA]` before a footer of 46 bits. -/
def acceptedRx : RxChan := { rxChan .extract (bits "11111111" ++ List.replicate 46 false) [] with
  cand := 54, candScore := 384, lenA := 1, lenB := 1, confA := 184, confB := 183, verdict := .accept }

theorem test_rxExtract : nextIs (exec (.rxExtract 0) (rxState acceptedRx)) (fun t =>
    t.rx == [{ acceptedRx with st := .shift }] && t.log == [.devwr [0xAA], .trace
      { op := 0x33, ch := some 0, code := .accepted, info := [1, 384, 184, 183] }]) = true := by decide +kernel

/-- P5: a mismatch is traced and nothing is delivered. -/
theorem test_rxExtract_reject : nextIs (exec (.rxExtract 0) (rxState { acceptedRx with lenA := 3, lenB := 5, verdict := .reject }))
    (fun t => t.log == [.trace { op := 0x33, ch := some 0, code := .lenMismatch, info := [3, 5, 384] }]) = true := by
  decide +kernel

theorem test_rxShift : nextIs (exec (.rxShift 0) (rxState { rxChan .shift (bits "1101") [1, 2, 3, 4] with n := 1, verdict := .filler }))
    (fun t => t.rx == [{ rxChan .fill (bits "1010") [2, 3, 4, 0] with n := 0, wr := 12942 }]) = true := by decide +kernel

/-- V11.2. -/
theorem test_rxHalt : nextIs (exec (.rxHalt 0) (rxOffering [eosChunk])) (fun t =>
    t.rx.map (fun r => (r.st.code, r.haltCode.code)) == [(7, 10)] && t.log == [.rxin 0 eosChunk, .trace
      { op := 0x35, ch := some 0, code := .rxEos, info := [] }]) = true := by decide +kernel

/-! The scheduler (V12), on queues as short as the operation allows. -/

/-- A live transmit channel. -/
def txChan (q : Bits) (real : Nat) : TxChan := { q := q, real := real, alive := true }

theorem test_txWait : nextIs (exec .txWait
      (let s := txState 4 [txChan [] 0, { txChan [] 0 with alive := false }] (sched .wait)
       { s with env := { s.env with devPkts := [[1, 2, 3]], txRdy := [true, true] } }))
    (fun t => t.sch.evDev && t.sch.evWr == [true, false] && t.sch.ph == .devrd) = true := by decide +kernel

/-- V12.2. -/
theorem test_txWait_waits : nextIs (exec .txWait
      (let s := txState 4 [txChan [] 0] { sched .wait with pendValid := true }
       { s with env := { s.env with devPkts := [[1, 2, 3]] } })) (fun t => t.sch.ph == .wait) = true := by decide +kernel

theorem test_txDevrd : nextIs (exec .txDevrd
      (let s := txState 4 [] { sched .devrd with evDev := true }
       { s with env := { s.env with devPkts := [[1, 2, 3], [4]] } }))
    (fun t => t.sch.pendData.take 4 == [1, 2, 3, 0] && t.sch.pendLen == 3 && t.sch.pendValid && t.sch.ph == .assign &&
      t.env.devPkts == [[4]]) = true := by decide +kernel

/-- V12.3: the packet `[0xAA]` and 48 bits of real data queued. -/
theorem test_txAssign_shared_uw : nextIs (exec .txAssign (txState 4 [txChan (List.replicate 151 false) 48]
      { sched .assign with pendValid := true, pendLen := 1, pendData := [0xAA] }))
    (fun t => t.tx == [txChan (List.replicate 48 false ++ bits ("11111111" ++
          "1001100110101001010110100101010101010101010101" ++ "110000101111001000100010101000101100001001001100") ++
        [false]) 150] && !t.sch.pendValid && t.sch.ph == .drain &&
      t.log == [.trace { op := 0x42, ch := some 0, code := .queued, info := [1, 48, 102] }]) = true := by decide +kernel

/-- V12.3: at 49 the channel is not free. -/
theorem test_txAssign_busy : nextIs (exec .txAssign (txState 4 [txChan [] 49]
      { sched .assign with pendValid := true, pendLen := 1, pendData := [0xAA] }))
    (fun t => t.tx == [txChan [] 49] && t.sch.pendValid && t.log == [.trace
      { op := 0x42, ch := none, code := .busy, info := [1] }]) = true := by decide +kernel

/-- V12.5 in small: three real bits, a quantum of four. -/
theorem test_txDrain : nextIs (exec .txDrain (txState 4 [txChan (bits "110101") 3] { sched .drain with evWr := [true] }))
    (fun t => t.tx == [txChan (bits "010101") 0] && t.sch.ci == 1 && t.sch.ph == .wait &&
      t.log == [.txout 0 (bits "1101") .ok]) = true := by decide +kernel

/-- V12.7. -/
theorem test_txDrain_not_ready :
    nextIs (exec .txDrain (txState 4 [txChan (bits "110101") 3] { sched .drain with evWr := [false] }))
    (fun t => t.tx == [txChan (bits "110101") 3] && t.sch.ci == 1 && t.log == []) = true := by decide +kernel

/-- A machine whose channel 0 of two has its quantum answered `err` (V12.8). -/
def failing : State :=
  let s := txState 4 [txChan (bits "110101") 140, txChan (bits "0101") 0] { sched .drain with evWr := [true, true] }
  { s with env := { s.env with txAns := [.err, .ok] } }

/-- V12.8, under both names. -/
theorem test_txFail : nextIs (exec .txFail failing) (fun t =>
    t.tx.map (fun u => (u.q, u.real, u.alive)) == [(bits "110101", 140, false), (bits "0101", 0, true)] && t.sch.ci == 1 &&
      t.sch.ph == .drain && t.log == [.txout 0 (bits "1101") .err, .trace
        { op := 0x44, ch := some 0, code := .txSink, info := [140] }]) = true ∧
    nextIs (exec .txDrain failing) (fun t => t == nextOr (exec .txFail failing) failing) = true := by decide +kernel

/-- V12.9. -/
theorem test_txAbort : nextIs (exec .txAbort (txState 4 [] { sched .devrd with evDev := true, pendValid := true }))
    (fun t => t.fatal && t.fatalCode.code == 14 && t.log == [.trace
      { op := 0x45, ch := none, code := .assertBacklog, info := [] }]) = true := by decide +kernel

/-! Reset and start-up (V13). -/

/-- A small machine between SYS.RESET and SYS.CFGCHK: two receive and two transmit channels, the start-up inputs given. -/
def starting (args : Bool) (sinks : List Bool) (dev : Bool) (srcs : List Bool) : State :=
  let s := txState 4 [txChan [] 0, txChan [] 0] (sched .wait)
  { s with
    rx := [rxChan .fill [] [], rxChan .fill [] []]
    cfg := { s.cfg with nbRx := [1, 1] }
    chkPending := true
    env := { s.env with argsOk := args, txSinkOk := sinks, devOk := dev, rxSrcOk := srcs } }

/-- The check takes CFG with the number `i`. -/
def cfgFails (s : State) (i : Int) : Bool :=
  nextIs (exec .sysCfgchk s) fun t => t.fatal && t.fatalCode.code == 13 && !t.chkPending && t.rx == s.rx &&
    t.log == [.trace { op := 0x51, ch := none, code := .cfg, info := [i] }]

/-- V13.2, V13.4, V13.5, V13.6 with V13.10: the first test that fails is the one reported. -/
theorem test_sysCfgchk_fatal : cfgFails (starting false [] false []) 1 = true ∧
    cfgFails (let s := starting true [] true []; { s with cfg := { s.cfg with nbTx := [0, 4] } }) 2 = true ∧
    cfgFails (starting true [true, false] false []) 3 = true ∧
    cfgFails (starting true [true, true] false [false, false]) 4 = true := by decide +kernel

/-- V13.7. -/
theorem test_sysCfgchk_source : nextIs (exec .sysCfgchk (starting true [true, true] true [false, true])) (fun t =>
    !t.fatal && t.rx.map (fun r => (r.st.code, r.haltCode.code)) == [(7, 11), (0, 0)] && t.log == [.trace
      { op := 0x51, ch := some 0, code := .rxOpen, info := [] }]) = true := by decide +kernel

/-- V13.1 for the elements that are not sequences, from a fatal state. -/
theorem test_sysReset : nextIs (exec .sysReset
      (let s := starting true [] true []
       { s with fatal := true, fatalCode := .cfg, env := { s.env with rst := true } }))
    (fun t => !t.fatal && t.fatalCode == .none && t.cfg == testCfg && t.chkPending && t.sch.ph == .wait &&
      t.rx.map (fun r => (r.st.code, r.wr, r.bits.take 2)) == [(0, 12942, [false, false])] &&
      t.tx.map (fun u => (u.q.take 3, u.real, u.alive)) == [(bits "010", 0, true)]) = true := by decide +kernel

/-! A step. -/

/-- A word in the script is fetched, decoded and run; here it is TX.ABORT. -/
theorem test_step_word : nextIs (step ((txState 4 [] { sched .devrd with evDev := true, pendValid := true }).withFetchWord 8 0x45))
    (fun t => t.fatal && t.script == []) = true := by decide +kernel

/-- With no script the scheduler's own phase says what comes next. -/
theorem test_step_arbiter : nextIs (step (txState 4 [] { sched .devrd with evDev := true, pendValid := true }))
    (fun t => t.fatalCode == .assertBacklog) = true := by decide +kernel

theorem test_env_event : nextIs (step { txState 4 [txChan [] 0] (sched .wait) with script := [.env (.txReady 0)] })
    (fun t => t.env.txRdy == [true]) = true := by decide +kernel

/-! Witnesses: for each statement with hypotheses, a state and operands that meet them together, clause by clause. -/

theorem xorRows_xor (rs : List Codeword) (i : Nat) (a b : LengthWord) :
    xorRows rs i (a ^^^ b) = xorRows rs i a ^^^ xorRows rs i b := by
  induction rs generalizing i with
  | nil => simp [xorRows]
  | cons r rs ih =>
    simp only [xorRows, ih, BitVec.getLsbD_xor]
    cases a.getLsbD i <;> cases b.getLsbD i <;> simp <;> ac_nf
    simp

/-- The default encoder is linear and takes 0xFFF to all ones. -/
theorem testCfg_G1_G3 : G1 (golayEnc testCfg) ∧ G3 (golayEnc testCfg) :=
  ⟨⟨by decide +kernel, xorRows_xor _ 0⟩, by unfold G3; decide +kernel⟩

/-- The number of ones among the low `k` bits of a number. -/
def ones : Nat → Nat → Nat
  | 0, _ => 0
  | k + 1, n => n % 2 + ones k (n / 2)

theorem ones_eq (k n : Nat) : ((List.range k).filter fun i => n.testBit i).length = ones k n := by
  induction k generalizing n with
  | zero => rfl
  | succ k ih =>
    rw [List.range_succ_eq_map, List.filter_cons, List.filter_map, ones, ← ih (n / 2)]
    have h : ((fun i => n.testBit i) ∘ Nat.succ) = fun i => (n / 2).testBit i := by
      funext i; simp [Nat.testBit_succ]
    rw [h]
    by_cases h2 : n % 2 = 1
    · simp [Nat.testBit_zero, h2, Nat.add_comm]
    · simp [Nat.testBit_zero, show n % 2 = 0 by omega]

/-- The codewords of the values below 64, as numbers. -/
def lowWords : List Nat := (List.range 64).map fun i => (golayEnc testCfg (BitVec.ofNat 12 i)).toNat

/-- The codewords of the multiples of 64, as numbers. -/
def highWords : List Nat := (List.range 64).map fun i => (golayEnc testCfg (BitVec.ofNat 12 (64 * i))).toNat

theorem test_weights : (lowWords.all fun a => highWords.all fun b => Nat.ble 7 (ones 23 (a ^^^ b)) || Nat.beq (a + b) 0) = true := by
  decide +kernel

theorem test_words_nonzero : ((List.range 64).all fun i => Nat.beq i 0 ||
    (Nat.ble 1 (golayEnc testCfg (BitVec.ofNat 12 i)).toNat && Nat.ble 1 (golayEnc testCfg (BitVec.ofNat 12 (64 * i))).toNat)) =
      true := by decide +kernel

theorem nat_split (n : Nat) : (n % 64) ^^^ (64 * (n / 64)) = n := by
  apply Nat.eq_of_testBit_eq
  intro i
  rw [Nat.testBit_xor, show 64 = 2 ^ 6 from rfl, Nat.testBit_mod_two_pow, Nat.testBit_two_pow_mul, Nat.testBit_div_two_pow]
  by_cases h : i < 6
  · simp [h, show ¬ 6 ≤ i by omega]
  · simp [h, show 6 ≤ i by omega]

/-- A value other than 0 has a codeword of weight at least 7. -/
theorem golay_weight (v : LengthWord) (hv : v ≠ 0) : 7 ≤ ones 23 (golayEnc testCfg v).toNat := by
  have hlt : v.toNat < 4096 := v.isLt
  have hs : v = BitVec.ofNat 12 (v.toNat % 64) ^^^ BitVec.ofNat 12 (64 * (v.toNat / 64)) := by
    apply BitVec.eq_of_toNat_eq
    rw [BitVec.toNat_xor, BitVec.toNat_ofNat, BitVec.toNat_ofNat,
      Nat.mod_eq_of_lt (show v.toNat % 64 < 2 ^ 12 by omega), Nat.mod_eq_of_lt (show 64 * (v.toNat / 64) < 2 ^ 12 by omega),
      nat_split]
  have hx : (golayEnc testCfg v).toNat = (golayEnc testCfg (BitVec.ofNat 12 (v.toNat % 64))).toNat ^^^
      (golayEnc testCfg (BitVec.ofNat 12 (64 * (v.toNat / 64)))).toNat := by
    rw [← BitVec.toNat_xor]
    exact congrArg BitVec.toNat ((congrArg (golayEnc testCfg) hs).trans (xorRows_xor _ 0 _ _))
  have h := List.all_eq_true.1 (List.all_eq_true.1 test_weights _
    (List.mem_map.2 ⟨v.toNat % 64, List.mem_range.2 (by omega), rfl⟩)) _
    (List.mem_map.2 ⟨v.toNat / 64, List.mem_range.2 (by omega), rfl⟩)
  rw [hx]
  rcases Bool.or_eq_true_iff.1 h with h | h
  · exact Nat.le_of_ble_eq_true h
  · exfalso
    have h := Nat.eq_of_beq_eq_true h
    have nz (i : Nat) (hi : i < 64) (h0 : i ≠ 0) := List.all_eq_true.1 test_words_nonzero i (List.mem_range.2 hi)
    by_cases h1 : v.toNat % 64 = 0
    · have h2 : v.toNat / 64 ≠ 0 := by
        intro h2
        exact hv (BitVec.eq_of_toNat_eq (by simp; omega))
      have := nz _ (by omega) h2
      simp only [Bool.or_eq_true, Bool.and_eq_true, Nat.beq_eq, h2, false_or, Nat.ble_eq] at this
      omega
    · have := nz _ (by omega) h1
      simp only [Bool.or_eq_true, Bool.and_eq_true, Nat.beq_eq, h1, false_or, Nat.ble_eq] at this
      omega

/-- The default encoder has least distance 7 (R140 G2). -/
theorem testCfg_G2 : G2 (golayEnc testCfg) := by
  intro a b hab
  have hv : a ^^^ b ≠ 0 := fun h => hab (BitVec.xor_eq_zero_iff.1 h)
  have h := golay_weight (a ^^^ b) hv
  rw [← ones_eq] at h
  have hx : golayEnc testCfg (a ^^^ b) = golayEnc testCfg a ^^^ golayEnc testCfg b := xorRows_xor _ 0 a b
  rw [hx] at h
  exact h

theorem witness_DefaultGolayIsPolynomialDivision : ∃ g : Cfg, g.golay = golayDefaultRows := ⟨testCfg, rfl⟩

theorem witness_LenEncReturnsPair : ∃ a b : Nat, a = 1600 ∧ a ≤ 1600 ∧ 1600 < b ∧ b = 1601 := ⟨1600, 1601, by decide⟩

theorem witness_LengthCodewordsComplementary :
    (∃ g : Cfg, G1 (golayEnc g) ∧ G3 (golayEnc g) ∧ (1600 : Nat) ≤ 1600 ∧ (22 : Nat) < 23) ∧ testCfg.golay = golayDefaultRows :=
  ⟨⟨testCfg, testCfg_G1_G3.1, testCfg_G1_G3.2, by decide, by decide⟩, rfl⟩

theorem witness_LenIlvIsBijectiveInterleaving : ∃ f : Bits, f.length = 46 ∧ (22 : Nat) < 23 ∧ lenIlv 1 2 = lenIlv 1 2 :=
  ⟨List.replicate 46 false, by decide⟩

theorem witness_LenDecIsLeastBest : ∃ x y : List Soft, x.length = 23 ∧ y.length ≠ 23 :=
  ⟨List.replicate 23 (-128), [], by decide⟩

theorem witness_LengthRoundTripNoiseless :
    ∃ (g : Cfg) (a : Int), G2 (golayEnc g) ∧ (1600 : Nat) ≤ 1600 ∧ (0 : Nat) ≤ 1600 ∧ 0 < a :=
  ⟨testCfg, 1, testCfg_G2, by decide, by decide, by decide⟩

theorem witness_ComplementaryFooterAgrees :
    ∃ (g : Cfg) (sa : List Soft), G1 (golayEnc g) ∧ G3 (golayEnc g) ∧ sa.length = 23 :=
  ⟨testCfg, List.replicate 23 8, testCfg_G1_G3.1, testCfg_G1_G3.2, by decide⟩

theorem witness_UwCorrReturnsSum : ∃ (sd : List Soft), 1 + 48 ≤ sd.length ∧ sd.length < 2 + 48 :=
  ⟨List.replicate 49 1, by decide⟩

theorem witness_UwSearchIsLeastBest :
    ∃ (sd : List Soft), (1 ≤ 2 ∧ 2 + 48 ≤ sd.length) ∧ (1 ≤ 3 ∧ sd.length < 3 + 48) ∧ (1 : Nat) < 2 :=
  ⟨List.replicate 50 1, by decide⟩

theorem witness_UwSearchPeaksAtCopy : ∃ (g : Cfg) (sd : List Soft) (lo hi t : Nat) (a : Int),
    lo ≤ t ∧ t ≤ hi ∧ hi + 48 ≤ sd.length ∧ 0 < a ∧
    (∀ i, lo ≤ i → i < hi + 48 → sd.getD i 0 = a ∨ sd.getD i 0 = -a) ∧
    (∀ i, i < 48 → sd.getD (t + i) 0 = if g.uw.getLsbD i then a else -a) ∧
    (∀ p, lo ≤ p → p ≤ hi → p ≠ t → ∃ i, i < 48 ∧ sd.getD (p + i) 0 ≠ if g.uw.getLsbD i then a else -a) := by
  refine ⟨testCfg, uwInput 1, 45, 46, 46, 1, by decide, by decide, by decide +kernel, by decide, ?_, by decide +kernel, ?_⟩
  · intro i h h'
    have : (List.range 94).all (fun i => (uwInput 1).getD i 0 == 1 || (uwInput 1).getD i 0 == -1) = true := by decide +kernel
    simpa using List.all_eq_true.1 this i (List.mem_range.2 (by omega))
  · intro p h h' hp
    obtain rfl : p = 45 := by omega
    decide +kernel

theorem witness_SerLeastSignificantFirst : ∃ (p : Packet) (k j : Nat), k < p.length ∧ j < 8 := ⟨[0x54], 0, 7, by decide⟩

theorem witness_DeserInvertsSer : ∃ a b : Bits, a.length % 8 = 0 ∧ b.length % 8 ≠ 0 ∧ 0 < a.length / 8 :=
  ⟨List.replicate 8 true, List.replicate 7 true, by decide⟩

theorem witness_FillerAlternates : ∃ m n j : Nat, j < m ∧ m % 2 = 1 ∧ 0 < n := ⟨1, 1, 0, by decide⟩

theorem witness_FrmEncLaysOutFrame : ∃ p p' : Packet, p.length = 1600 ∧ p.length ≤ 1600 ∧ 1600 < p'.length ∧ p'.length = 1601 :=
  ⟨List.replicate 1600 0, List.replicate 1601 0, by decide +kernel⟩

/-- An encoder whose codewords are the lowest bit of the value alone, so that lengths can be decoded by hand. -/
def bitGolay : Cfg := { testCfg with golay := #v[1, 0, 0, 0, 0, 0, 0, 0, 0, 0, 0, 0] }

/-- The soft values of a footer that says `x` of codeword A's lowest bit, `y` of B's and nothing else, ending at `o`. -/
def bitFoot (o : Nat) (x y : Int) : List Soft := List.replicate (o - 46) 0 ++ x :: y :: List.replicate 44 0

theorem bitFoot_length (o : Nat) (h : 46 ≤ o) (x y : Int) : (bitFoot o x y).length = o := by
  simp only [bitFoot, List.length_append, List.length_cons, List.length_replicate]
  omega

theorem bitFoot_getD (o : Nat) (x y : Int) (i : Nat) :
    (bitFoot o x y).getD (o - 46 + i) 0 = (x :: y :: List.replicate 44 0).getD i 0 := by
  have h : (List.replicate (o - 46) (0 : Int)).length = o - 46 := List.length_replicate ..
  simp only [bitFoot, List.getD_eq_getElem?_getD]
  rw [List.getElem?_append_right (by omega), h, Nat.add_sub_cancel_left]

theorem footA_bitFoot (o : Nat) (x y : Int) : footA (bitFoot o x y) o = x :: List.replicate 22 0 := by
  simp only [footA, bitFoot_getD]
  rfl

theorem footB_bitFoot (o : Nat) (x y : Int) : footB (bitFoot o x y) o = y :: List.replicate 22 0 := by
  simp only [footB, Nat.add_assoc, bitFoot_getD]
  rfl

theorem bitGolay_score (x : Int) (par : Bool) (v : Nat) :
    lenScoreSpec bitGolay (x :: List.replicate 22 0) par v = soft (v.testBit 0 ^^ par) x := by
  have hb : ∀ w : LengthWord, codewordBits (golayEnc bitGolay w) = w.getLsbD 0 :: List.replicate 22 false := by
    intro w
    have : golayEnc bitGolay w = if w.getLsbD 0 then 1 else 0 := by simp [golayEnc, bitGolay, xorRows]
    rw [this]
    cases w.getLsbD 0 <;> decide +kernel
  rw [← lenScore_eq_spec _ _ _ _ rfl, lenScore, hb, corr_cons, corr_zeros, Int.add_zero]
  have hv : (lengthWordOf v).getLsbD 0 = v.testBit 0 := by
    rw [lengthWordOf, BitVec.getLsbD_ofNat, show decide (0 < 12) = true from rfl, Bool.true_and]
  rw [BitVec.getLsbD_xor, hv]
  cases par <;> rfl

/-- A footer for the lowest bit of both codewords decodes to 1 twice, one that says nothing to 0. -/
theorem bitGolay_decodes : LeastMax (lenScoreSpec bitGolay (1 :: List.replicate 22 0) false) 0 1600 1 1 ∧
    LeastMax (lenScoreSpec bitGolay (-1 :: List.replicate 22 0) true) 0 1600 1 1 ∧
    ∀ par, LeastMax (lenScoreSpec bitGolay (0 :: List.replicate 22 0) par) 0 1600 0 0 := by
  simp only [LeastMax, bitGolay_score]
  refine ⟨⟨by decide, by decide, by decide, fun p _ _ => ?_, fun p _ h => ?_⟩,
    ⟨by decide, by decide, by decide, fun p _ _ => ?_, fun p _ h => ?_⟩,
    fun par => ⟨by decide, by decide, ?_, fun p _ _ => ?_, fun p _ h => absurd h (Nat.not_lt_zero p)⟩⟩
  · cases p.testBit 0 <;> decide
  · obtain rfl : p = 0 := by omega
    decide
  · cases p.testBit 0 <;> decide
  · obtain rfl : p = 0 := by omega
    decide
  · cases par <;> decide
  · cases p.testBit 0 <;> cases par <;> decide

/-- Every clause has a case: the domain's first offset; agreed lengths of 1 on both sides of `46 + 8 la`, agreed lengths of 0,
lengths that differ; and the offsets around the window's two ends. -/
theorem witness_FrmDecClassifiesCandidate :
    (∃ (b : Bits) (sd : List Soft) (o : Nat), b.length = sd.length ∧ 12846 ≤ o ∧ o ≤ sd.length) ∧
    (∀ o ∈ [53, 54], ∃ (s : State) (b : Bits) (sd : List Soft), b.length = sd.length ∧ 46 ≤ o ∧ o ≤ sd.length ∧
      LeastMax (lenScoreSpec s.cfg (footA sd o) false) 0 1600 1 1 ∧
      LeastMax (lenScoreSpec s.cfg (footB sd o) true) 0 1600 1 1 ∧ (46 + 8 * 1 ≤ o ↔ o = 54)) ∧
    (∃ (s : State) (b : Bits) (sd : List Soft), b.length = sd.length ∧ 46 ≤ sd.length ∧
      LeastMax (lenScoreSpec s.cfg (footA sd 46) false) 0 1600 0 0 ∧
      LeastMax (lenScoreSpec s.cfg (footB sd 46) true) 0 1600 0 0) ∧
    (∃ (s : State) (b : Bits) (sd : List Soft), b.length = sd.length ∧ 46 ≤ sd.length ∧
      LeastMax (lenScoreSpec s.cfg (footA sd 46) false) 0 1600 1 1 ∧
      LeastMax (lenScoreSpec s.cfg (footB sd 46) true) 0 1600 0 0) ∧
    ∃ (b : Bits) (sd : List Soft), b.length = sd.length ∧ (46 ≤ 46 ∧ 46 ≤ sd.length) ∧ (45 : Nat) < 46 ∧ sd.length < 47 ∧
      46 ≤ 47 := by
  obtain ⟨ha, hb, h0⟩ := bitGolay_decodes
  refine ⟨⟨List.replicate 12846 true, List.replicate 12846 1, 12846, ?_, le_refl _, ?_⟩, fun o ho => ?_, ?_, ?_,
    List.replicate 46 true, List.replicate 46 1, by decide⟩
  · rw [List.length_replicate, List.length_replicate]
  · rw [List.length_replicate]
  · have ho : 46 ≤ o ∧ (46 + 8 * 1 ≤ o ↔ o = 54) := by
      simp only [List.mem_cons, List.not_mem_nil, or_false] at ho
      omega
    have hl := bitFoot_length o ho.1 1 (-1)
    refine ⟨{ State.reset with cfg := bitGolay }, List.replicate o true, bitFoot o 1 (-1), ?_, ho.1, hl.ge, ?_, ?_, ho.2⟩
    · rw [hl, List.length_replicate]
    · rw [footA_bitFoot]; exact ha
    · rw [footB_bitFoot]; exact hb
  · refine ⟨{ State.reset with cfg := bitGolay }, List.replicate 46 true, bitFoot 46 0 0, rfl, by decide, ?_, ?_⟩
    · rw [footA_bitFoot]; exact h0 false
    · rw [footB_bitFoot]; exact h0 true
  · refine ⟨{ State.reset with cfg := bitGolay }, List.replicate 46 true, bitFoot 46 1 0, rfl, by decide, ?_, ?_⟩
    · rw [footA_bitFoot]; exact ha
    · rw [footB_bitFoot]; exact h0 true

/-- A window that ends in a frame without its leading unique word, at the least offset that has room for it, at the first of
R179's domain (12846), and at the next. -/
theorem witness_FrameRoundTripNoiseless : ∀ p ∈ ([[], [0xAA]] : List Packet), ∀ o ∈ [46 + 8 * p.length, 12846, 12847],
    ∃ (s : State) (b : Bits) (sd : List Soft) (a : Int),
    G2 (golayEnc s.cfg) ∧ p.length ≤ 1600 ∧ 0 < a ∧ 46 + 8 * p.length ≤ o ∧ o + 48 ≤ b.length ∧ b.length = sd.length ∧
    (b.drop (o - 46 - 8 * p.length)).take (94 + 8 * p.length) = frmEnc s.cfg p false ∧
    (sd.drop (o - 46 - 8 * p.length)).take (94 + 8 * p.length) = hardSoft a (frmEnc s.cfg p false) := by
  intro p hp o ho
  have hl : (frmEnc testCfg p false).length = 94 + 8 * p.length ∧ p.length ≤ 1 := by
    simp only [List.mem_cons, List.not_mem_nil, or_false] at hp
    rcases hp with rfl | rfl <;> decide +kernel
  have ho : 46 + 8 * p.length ≤ o := by
    simp only [List.mem_cons, List.not_mem_nil, or_false] at ho
    omega
  have hh : (hardSoft 1 (frmEnc testCfg p false)).length = 94 + 8 * p.length := by simp [hardSoft, hl.1]
  refine ⟨State.reset, List.replicate (o - 46 - 8 * p.length) false ++ frmEnc testCfg p false,
    List.replicate (o - 46 - 8 * p.length) 0 ++ hardSoft 1 (frmEnc testCfg p false), 1, testCfg_G2, by omega, by decide, ho,
    ?_, ?_, ?_, ?_⟩
  · rw [List.length_append, List.length_replicate, hl.1]; omega
  · rw [List.length_append, List.length_append, List.length_replicate, List.length_replicate, hl.1, hh]
  · rw [List.drop_left' (List.length_replicate ..), ← hl.1]; exact List.take_length
  · rw [List.drop_left' (List.length_replicate ..), ← hh]; exact List.take_length

theorem witness_WirePatternsAssembleFields : ∃ a b : Nat, a ≤ 1600 ∧ 1600 < b := ⟨1600, 1601, by decide⟩

/-- The hypotheses every statement about an operation of a worker shares. -/
def WorkerAt (s : State) (k : Nat) (r : RxChan) (st : RxSt) : Prop :=
  s.rx[k]? = some r ∧ s.fatal = false ∧ s.chkPending = false ∧ r.st = st

/-- The hypotheses every statement about an operation of the scheduler shares. -/
def SchedAt (s : State) (ph : Phase) : Prop := s.fatal = false ∧ s.chkPending = false ∧ s.sch.ph = ph

/-- A channel of a machine made by `rxState` is in its state. -/
theorem workerAt_rxState (r : RxChan) : WorkerAt (rxState r) 0 r r.st := ⟨rfl, rfl, rfl, rfl⟩

/-- The reset channel of the machine that `rxOffering` makes. -/
def rx1 : RxChan := resetRx bitCfg 0

theorem witness_RxFillTakesChunk : ∃ (s : State) (k : Nat) (r : RxChan) (c : Chunk), WorkerAt s k r .fill ∧
    s.rxOffered k = some c ∧ c.eos = false ∧ 1 ≤ c.n ∧ c.n ≤ s.cfg.chunkMax k ∧ c.cbits.length = c.n ∧ c.csd.length = c.n ∧
    (∀ x ∈ c.csd, s.cfg.softOk x = true) ∧ r.bits.length = s.cfg.wRx k ∧ r.sd.length = s.cfg.wRx k :=
  ⟨rxOffering [oneBit], 0, rx1, oneBit, ⟨rfl, rfl, rfl, rfl⟩, rfl, rfl, by decide, by decide, rfl, rfl, by decide,
    List.length_replicate .., List.length_replicate ..⟩

theorem witness_RxFillWaitsOrRefuses : (WorkerAt (rxOffering []) 0 rx1 .fill ∧ (rxOffering []).rxOffered 0 = none) ∧
    (WorkerAt (rxOffering [eosChunk]) 0 rx1 .fill ∧ (rxOffering [eosChunk]).rxOffered 0 = some eosChunk ∧ eosChunk.eos = true) ∧
    (∀ n ∈ [0, 2], ∃ (s : State) (c : Chunk), WorkerAt s 0 rx1 .fill ∧ s.rxOffered 0 = some c ∧ c.eos = false ∧
      (c.n = 0 ∨ s.cfg.chunkMax 0 < c.n) ∧ c.n = n) ∧
    ∀ (b : Bits) (x : Soft), ∃ (s : State) (c : Chunk), WorkerAt s 0 rx1 .fill ∧ s.rxOffered 0 = some c ∧ c.eos = false ∧
      c.cbits = b ∧ c.csd = [x] :=
  ⟨⟨⟨rfl, rfl, rfl, rfl⟩, rfl⟩, ⟨⟨rfl, rfl, rfl, rfl⟩, rfl, rfl⟩, by
    intro n hn
    simp only [List.mem_cons, List.not_mem_nil, or_false] at hn
    exact ⟨rxOffering [{ oneBit with n := n }], { oneBit with n := n }, ⟨rfl, rfl, rfl, rfl⟩, rfl, rfl, by
      rcases hn with rfl | rfl <;> decide, rfl⟩,
    fun b x => ⟨rxOffering [{ oneBit with cbits := b, csd := [x] }], { oneBit with cbits := b, csd := [x] },
      ⟨rfl, rfl, rfl, rfl⟩, rfl, rfl, rfl, rfl⟩⟩

theorem witness_RxSearchFindsCandidate : ∃ (s : State) (k : Nat) (r : RxChan), WorkerAt s k r .search ∧ 1 ≤ r.n ∧
    12942 + r.n ≤ r.sd.length :=
  ⟨rxState { rx1 with st := .search, n := 1 }, 0, { rx1 with st := .search, n := 1 }, workerAt_rxState _, le_refl _,
    (List.length_replicate (n := 12943) (a := (0 : Soft))).ge⟩

theorem witness_RxValidateDecodesFooter : ∃ (s : State) (k : Nat) (r : RxChan), WorkerAt s k r .validate ∧ 46 ≤ r.cand ∧
    r.cand ≤ r.sd.length := ⟨rxState zeroFoot, 0, zeroFoot, workerAt_rxState _, by decide, by decide⟩

theorem witness_RxExtractDeliversPacket : ∃ (s : State) (k : Nat) (r : RxChan), WorkerAt s k r .extract ∧
    r.verdict = .accept ∧ s.env.devwrReady = true ∧ 46 + 8 * r.lenA ≤ r.cand ∧ r.cand ≤ r.bits.length + 46 :=
  ⟨rxState acceptedRx, 0, acceptedRx, workerAt_rxState _, rfl, rfl, by decide, by decide⟩

theorem witness_RxExtractWithoutDelivery :
    (∃ (s : State) (r : RxChan), WorkerAt s 0 r .extract ∧ r.verdict = .accept ∧ s.env.devwrReady = false) ∧
    ∀ v : Verdict, ∃ (s : State) (r : RxChan), WorkerAt s 0 r .extract ∧ r.verdict = v :=
  ⟨⟨(rxState acceptedRx).setEnv { (rxState acceptedRx).env with devwrReady := false }, acceptedRx,
      ⟨rfl, rfl, rfl, rfl⟩, rfl, rfl⟩,
    fun v => ⟨rxState { acceptedRx with verdict := v }, { acceptedRx with verdict := v }, workerAt_rxState _, rfl⟩⟩

/-- A window of four positions to be shifted by one. -/
def shiftRx : RxChan := { rxChan .shift (bits "1101") [1, 2, 3, 4] with n := 1, verdict := .filler }

theorem witness_RxShiftMovesWindow : ∃ (s : State) (k : Nat) (r : RxChan), WorkerAt s k r .shift ∧ r.n ≤ r.bits.length ∧
    r.n ≤ r.sd.length ∧ 2 + r.n < r.bits.length ∧ r.bits.length ≤ 3 + r.n ∧ 3 < r.bits.length ∧ r.sd.length = r.bits.length :=
  ⟨rxState shiftRx, 0, shiftRx, workerAt_rxState _, by decide⟩

theorem witness_RxHaltEndsWorker : (WorkerAt (rxOffering [eosChunk]) 0 rx1 .fill ∧
      (rxOffering [eosChunk]).rxOffered 0 = some eosChunk ∧ eosChunk.eos = true) ∧
    (WorkerAt (rxOffering []) 0 rx1 .fill ∧ (rxOffering []).rxOffered 0 = none) ∧
    (WorkerAt (rxOffering [oneBit]) 0 rx1 .fill ∧ (rxOffering [oneBit]).rxOffered 0 = some oneBit ∧ oneBit.eos = false) :=
  ⟨⟨⟨rfl, rfl, rfl, rfl⟩, rfl, rfl⟩, ⟨⟨rfl, rfl, rfl, rfl⟩, rfl⟩, ⟨⟨rfl, rfl, rfl, rfl⟩, rfl, rfl⟩⟩

theorem memWrite_isSome {α : Type} {xs v : List α} {pos : Nat} (h : pos + v.length ≤ xs.length) :
    ∃ ys, memWrite xs pos v = some ys ∧ ys.length = xs.length := by
  have e : memWrite xs pos v = some (xs.take pos ++ v ++ xs.drop (pos + v.length)) := by simp [memWrite, h]
  exact ⟨_, e, memWrite_length e⟩

theorem shiftIn_isSome {α : Type} {xs tail : List α} (h : tail.length ≤ xs.length) : ∃ ys, shiftIn xs tail = some ys :=
  ⟨xs.drop tail.length ++ tail, by simp [shiftIn, h]⟩

theorem witness_WindowIsLastOfStream : ∃ (s t u v : State) (k : Nat) (r ru : RxChan) (c : Chunk),
    s.rx[k]? = some r ∧ r.bits.length = s.cfg.wRx k ∧ r.sd.length = s.cfg.wRx k ∧ s.rxOffered k = some c ∧
    exec (.rxFill k) s = .next t ∧ (∃ rt, t.rx[k]? = some rt ∧ rt.st = .search ∧
      ru.bits = rt.bits ∧ ru.sd = rt.sd ∧ ru.n = rt.n) ∧ r.st = .fill ∧
    u.rx[k]? = some ru ∧ ru.st = .shift ∧ u.fatal = false ∧ u.chkPending = false ∧ exec (.rxShift k) u = .next v := by
  have hb : rx1.bits.length = 12943 := List.length_replicate ..
  have hs : rx1.sd.length = 12943 := List.length_replicate ..
  obtain ⟨b, eb, lb⟩ := memWrite_isSome (xs := rx1.bits) (v := oneBit.cbits) (pos := base) (by rw [hb]; decide)
  obtain ⟨d, ed, ld⟩ := memWrite_isSome (xs := rx1.sd) (v := oneBit.csd) (pos := base) (by rw [hs]; decide)
  have hf : exec (.rxFill 0) (rxOffering [oneBit]) =
      .next (((rxOffering [oneBit]).takeRxin 0 oneBit).setRx 0 (filledRx rx1 1 b d)) := by
    have ho : (rxOffering [oneBit]).rxOffered 0 = some oneBit := rfl
    have hc : chunkOk (rxOffering [oneBit]).cfg 0 oneBit = true := by decide +kernel
    rw [show exec (.rxFill 0) (rxOffering [oneBit]) = execRxFill 0 (rxOffering [oneBit]) from rfl, execRxFill,
      workerStep_enabled (k := 0) (st := .fill) (s := rxOffering [oneBit]) (r := rx1) rfl rfl rfl]
    simp only [ho, hc, writeOr, eb, ed]
    rfl
  let ru : RxChan := { filledRx rx1 1 b d with st := .shift }
  obtain ⟨b', eb'⟩ := shiftIn_isSome (xs := b) (tail := List.replicate 1 false) (by rw [lb, hb]; decide)
  obtain ⟨d', ed'⟩ := shiftIn_isSome (xs := d) (tail := List.replicate 1 0) (by rw [ld, hs]; decide)
  have hsh : exec (.rxShift 0) (rxState ru) = .next ((rxState ru).setRx 0 (shiftedRx ru b' d')) := by
    show shiftOr .rxbits b (List.replicate 1 false) _ = _
    simp only [shiftOr, eb']
    show shiftOr .rxsd d (List.replicate 1 0) _ = _
    simp only [shiftOr, ed']
  exact ⟨rxOffering [oneBit], _, rxState ru, _, 0, rx1, ru, oneBit, rfl, hb, hs, rfl, hf,
    ⟨filledRx rx1 1 b d, rfl, rfl, rfl, rfl, rfl⟩, rfl, rfl, rfl, rfl, rfl, hsh⟩

/-- A delivery, which changes the device write port, and a port other than the worker's own. -/
theorem witness_WorkersAreIndependent : ∃ (i : Instr) (k j : Nat) (st : RxSt) (s t : State),
    workerStateOf i = some (k, st) ∧ exec i s = .next t ∧ j ≠ k :=
  ⟨.rxExtract 0, 0, 1, .extract, rxState acceptedRx, _, rfl, next_of_isNext (d := State.reset) (by decide +kernel), by decide⟩

theorem witness_DisabledOperationChangesNothing :
    (∃ s : State, s.rx[0]? = some rx1 ∧ s.fatal = true) ∧ (∃ s : State, s.rx[0]? = some rx1 ∧ s.chkPending = true) ∧
    (∃ s : State, s.rx[0]? = some rx1 ∧ rx1.st ≠ .shift ∧ workerStateOf (.rxShift 0) = some (0, .shift)) ∧
    (∃ s : State, s.rx.length ≤ 1 ∧ workerStateOf (.rxShift 1) = some (1, .shift)) ∧
    (∃ s : State, phaseOf .txDrain = some .drain ∧ s.fatal = true) ∧
    (∃ s : State, phaseOf .txDrain = some .drain ∧ s.chkPending = true) ∧
    ∃ s : State, phaseOf .txDrain = some .drain ∧ s.sch.ph ≠ .drain :=
  ⟨⟨{ rxState rx1 with fatal := true }, rfl, rfl⟩, ⟨{ rxState rx1 with chkPending := true }, rfl, rfl⟩,
    ⟨rxState rx1, rfl, by decide, rfl⟩, ⟨rxState rx1, le_refl _, rfl⟩, ⟨{ rxState rx1 with fatal := true }, rfl, rfl⟩,
    ⟨{ rxState rx1 with chkPending := true }, rfl, rfl⟩, ⟨rxState rx1, rfl, by decide⟩⟩

/-- A machine with one live transmit channel and the scheduler `q`, its environment changed by `f`. -/
def txWith (u : TxChan) (q : Sched) (f : Env → Env) : State := let s := txState 4 [u] q; s.setEnv (f s.env)

theorem witness_TxWaitLatchesEvents :
    (∃ s : State, SchedAt s .wait ∧ s.sch.pendValid = false ∧ s.env.devPkts ≠ []) ∧
    (∃ s : State, SchedAt s .wait ∧ ∃ (c : Nat) (u : TxChan), s.tx[c]? = some u ∧ u.alive = true ∧ s.env.txRdy.getD c false = true) ∧
    ∃ s : State, SchedAt s .wait ∧ ¬ ((s.sch.pendValid = false ∧ s.env.devPkts ≠ []) ∨
        ∃ (c : Nat) (u : TxChan), s.tx[c]? = some u ∧ u.alive = true ∧ s.env.txRdy.getD c false = true) := by
  refine ⟨⟨txWith (txChan [] 0) (sched .wait) fun e => { e with devPkts := [[]] }, ⟨rfl, rfl, rfl⟩, rfl, by decide⟩,
    ⟨txWith (txChan [] 0) (sched .wait) fun e => { e with txRdy := [true] }, ⟨rfl, rfl, rfl⟩, 0, _, rfl, rfl, rfl⟩,
    txState 4 [] (sched .wait), ⟨rfl, rfl, rfl⟩, ?_⟩
  rintro (⟨_, h⟩ | ⟨c, u, h, _⟩)
  · exact h rfl
  · cases h

theorem witness_TxDevrdTakesPacket : ∀ n ∈ [0, 1600], ∃ (s : State) (p : Packet) (rest : List Packet), SchedAt s .devrd ∧
    s.sch.evDev = true ∧ s.sch.pendValid = false ∧ s.env.devPkts = p :: rest ∧ p.length ≤ 1600 ∧
    s.sch.pendData.length = 1600 ∧ p.length = n := by
  intro n hn
  refine ⟨txWith (txChan [] 0) { sched .devrd with evDev := true } fun e => { e with devPkts := [List.replicate n 7] },
    List.replicate n 7, [], ⟨rfl, rfl, rfl⟩, rfl, rfl, rfl, ?_, List.length_replicate .., List.length_replicate ..⟩
  rw [List.length_replicate]
  simp only [List.mem_cons, List.not_mem_nil, or_false] at hn
  omega

theorem witness_TxDevrdOtherCases : (∃ s : State, SchedAt s .devrd ∧ s.sch.evDev = false) ∧
    (∃ s : State, SchedAt s .devrd ∧ s.sch.evDev = true ∧ s.sch.pendValid = false ∧ s.env.devPkts = []) ∧
    ∃ (s : State) (p : Packet) (rest : List Packet), SchedAt s .devrd ∧ s.sch.evDev = true ∧ s.sch.pendValid = false ∧
      s.env.devPkts = p :: rest ∧ 1600 < p.length :=
  ⟨⟨txState 4 [] (sched .devrd), ⟨rfl, rfl, rfl⟩, rfl⟩,
    ⟨txState 4 [] { sched .devrd with evDev := true }, ⟨rfl, rfl, rfl⟩, rfl, rfl, rfl⟩,
    ⟨txWith (txChan [] 0) { sched .devrd with evDev := true } fun e => { e with devPkts := [List.replicate 1601 7] },
      List.replicate 1601 7, [], ⟨rfl, rfl, rfl⟩, rfl, rfl, rfl, by rw [List.length_replicate]; decide⟩⟩

/-- A scheduler with the packet `[0xAA]` in its slot. -/
def slotted : Sched := { sched .assign with pendValid := true, pendLen := 1, pendData := [0xAA] }

/-- A machine about to queue it behind `real` bits on channel 1; channel 0 is not free. -/
def assigning (real : Nat) : State := txState 4 [txChan [] 49, txChan (List.replicate 150 false) real] slotted

theorem witness_TxAssignQueuesFrame : ∀ real ∈ [0, 48], ∃ (s : State) (c : Nat) (u : TxChan) (f : Bits), SchedAt s .assign ∧
    s.sch.pendValid = true ∧ s.tx[c]? = some u ∧ u.alive = true ∧ u.real ≤ 48 ∧
    (∀ (j : Nat) (w : TxChan), j < c → s.tx[j]? = some w → w.alive = false ∨ 48 < w.real) ∧
    s.sch.pendLen ≤ s.sch.pendData.length ∧
    f = frmEnc s.cfg (s.sch.pendData.take s.sch.pendLen) (u.real == 0) ∧ u.real + f.length ≤ u.q.length ∧ u.real = real := by
  intro real hr
  have h : real ≤ 48 ∧ real + (frmEnc testCfg [0xAA] (real == 0)).length ≤ 150 := by
    simp only [List.mem_cons, List.not_mem_nil, or_false] at hr
    rcases hr with rfl | rfl <;> decide +kernel
  refine ⟨assigning real, 1, txChan (List.replicate 150 false) real, _, ⟨rfl, rfl, rfl⟩, rfl, rfl, rfl, h.1, ?_, by
    show 1 ≤ 1; decide, rfl, h.2.trans (List.length_replicate (n := 150) (a := false)).ge, rfl⟩
  intro j w hj hw
  obtain rfl : j = 0 := by omega
  obtain rfl := Option.some.inj hw
  exact .inr (by decide)

theorem witness_TxAssignBusyOrEmpty : (∃ s : State, SchedAt s .assign ∧ s.sch.pendValid = false) ∧
    ∃ s : State, SchedAt s .assign ∧ s.sch.pendValid = true ∧
      (∀ (c : Nat) (u : TxChan), s.tx[c]? = some u → u.alive = false ∨ 48 < u.real) ∧ s.tx.length = 2 := by
  refine ⟨⟨txState 4 [] (sched .assign), ⟨rfl, rfl, rfl⟩, rfl⟩,
    txState 4 [txChan [] 49, { txChan [] 0 with alive := false }] slotted, ⟨rfl, rfl, rfl⟩, rfl, ?_, rfl⟩
  intro c u h
  match c, h with
  | 0, h => obtain rfl := Option.some.inj h; exact .inr (by decide)
  | 1, h => obtain rfl := Option.some.inj h; exact .inl rfl

theorem witness_AssignmentOnlyToFreeChannel : ∃ (s t : State) (c : Nat) (u u' : TxChan), exec .txAssign s = .next t ∧
    s.tx[c]? = some u ∧ t.tx[c]? = some u' ∧ u' ≠ u := by
  have h : (((nextOr (exec .txAssign (assigning 48)) State.reset).tx)[1]?.map TxChan.real) = some 150 := by decide +kernel
  obtain ⟨u', hu, hr⟩ := Option.map_eq_some_iff.1 h
  refine ⟨assigning 48, _, 1, txChan (List.replicate 150 false) 48, u',
    next_of_isNext (d := State.reset) (by decide +kernel), rfl, hu, ?_⟩
  rintro rfl
  cases hr

/-- A machine about to drain a channel with `real` real bits, whose quantum is answered `a`. -/
def draining (real : Nat) (a : TxAnswer) : State :=
  txWith (txChan (bits "110101") real) { sched .drain with evWr := [true] } fun e => { e with txAns := [a] }

/-- The hypotheses of the statements about draining the channel `sch.ci`. -/
theorem draining_meets (real : Nat) (a : TxAnswer) : SchedAt (draining real a) .drain ∧
    (draining real a).tx[(draining real a).sch.ci]? = some (txChan (bits "110101") real) ∧
    (draining real a).sch.evWr.getD (draining real a).sch.ci false = true ∧ (txChan (bits "110101") real).alive = true ∧
    (draining real a).answer (draining real a).sch.ci = a ∧
    (draining real a).cfg.quantum (draining real a).sch.ci ≤ (txChan (bits "110101") real).q.length :=
  ⟨⟨rfl, rfl, rfl⟩, rfl, rfl, rfl, rfl, by show 4 ≤ (bits "110101").length; decide⟩

theorem witness_TxDrainEmitsQuantum : ∀ real ∈ [3, 4, 5], ∃ (s : State) (u : TxChan), SchedAt s .drain ∧
    s.tx[s.sch.ci]? = some u ∧ s.sch.evWr.getD s.sch.ci false = true ∧ u.alive = true ∧ s.answer s.sch.ci = .ok ∧
    s.cfg.quantum s.sch.ci ≤ u.q.length ∧ u.real = real := by
  intro real _
  obtain ⟨h1, h2, h3, h4, h5, h6⟩ := draining_meets real .ok
  exact ⟨_, _, h1, h2, h3, h4, h5, h6, rfl⟩

theorem witness_TxDrainSkipsOrWaits :
    (∃ (s : State) (u : TxChan), SchedAt s .drain ∧ s.tx[s.sch.ci]? = some u ∧ s.sch.evWr.getD s.sch.ci false = false) ∧
    (∃ (s : State) (u : TxChan), SchedAt s .drain ∧ s.tx[s.sch.ci]? = some u ∧ u.alive = false) ∧
    ∃ (s : State) (u : TxChan), SchedAt s .drain ∧ s.tx[s.sch.ci]? = some u ∧ s.sch.evWr.getD s.sch.ci false = true ∧
      u.alive = true ∧ s.cfg.quantum s.sch.ci ≤ u.q.length ∧ s.answer s.sch.ci = .notTaken := by
  obtain ⟨h1, h2, h3, h4, h5, h6⟩ := draining_meets 3 .notTaken
  exact ⟨⟨txState 4 [txChan [] 0] { sched .drain with evWr := [false] }, _, ⟨rfl, rfl, rfl⟩, rfl, rfl⟩,
    ⟨txState 4 [{ txChan [] 0 with alive := false }] (sched .drain), _, ⟨rfl, rfl, rfl⟩, rfl, rfl⟩,
    ⟨_, _, h1, h2, h3, h4, h6, h5⟩⟩

theorem witness_TxFailKillsChannel : ∃ (s : State) (u : TxChan), SchedAt s .drain ∧
    s.tx[s.sch.ci]? = some u ∧ s.sch.evWr.getD s.sch.ci false = true ∧ u.alive = true ∧ s.answer s.sch.ci = .err ∧
    s.cfg.quantum s.sch.ci ≤ u.q.length := by
  obtain ⟨h1, h2, h3, h4, h5, h6⟩ := draining_meets 3 .err
  exact ⟨_, _, h1, h2, h3, h4, h5, h6⟩

/-- The machine of V12.9. -/
def aborting : State := txState 4 [txChan [] 0] { sched .devrd with evDev := true, pendValid := true }

theorem witness_TxAbortIsFatal : SchedAt aborting .devrd ∧ aborting.sch.evDev = true ∧ aborting.sch.pendValid = true :=
  ⟨⟨rfl, rfl, rfl⟩, rfl, rfl⟩

/-- TX.ASSIGN with a channel that stays as it is, and the same of TX.DRAIN and TX.DEVRD, which have another port to touch. -/
theorem witness_SchedulerLeavesWorkersAlone :
    (∃ (i : Instr) (ph : Phase) (s t : State) (j : Nat), phaseOf i = some ph ∧ exec i s = .next t ∧ i ≠ .txDevrd ∧
      i ≠ .txDrain ∧ i ≠ .txFail ∧ touchedTx i s = some 1 ∧ touchedTx i s ≠ some j ∧ j < s.tx.length) ∧
    (∃ s t : State, exec .txDrain s = .next t ∧ touchedTx .txDrain s = some 0) ∧
    ∃ (s t : State) (j : Nat), exec .txAbort s = .next t ∧ touchedTx .txAbort s ≠ some j ∧ j < s.tx.length :=
  ⟨⟨.txAssign, .assign, assigning 48, _, 0, rfl, next_of_isNext (d := State.reset) (by decide +kernel), by decide, by decide,
      by decide, rfl, by decide, by decide⟩,
    ⟨draining 3 .ok, _, next_of_isNext (d := State.reset) (by decide +kernel), rfl⟩,
    ⟨aborting, _, 0, next_of_isNext (d := State.reset) (by decide +kernel), by decide, by decide⟩⟩

theorem witness_SysResetRestoresTable : (∃ s : State, s.env.rst = true ∧ 0 < s.env.cfgIn.nrx ∧ 0 < s.env.cfgIn.ntx) ∧
    ∃ s : State, s.env.rst = false :=
  ⟨⟨State.reset.setEnv { State.reset.env with rst := true }, rfl, by decide, by decide⟩, State.reset, rfl⟩

theorem witness_SysCfgchkTestsInOrder :
    (∃ s : State, s.chkPending = true ∧ s.env.rst = false ∧ s.env.argsOk = false) ∧
    (∃ s : State, s.chkPending = true ∧ s.env.rst = false ∧ s.env.argsOk = true ∧ s.cfg.valid = false) ∧
    (∃ s : State, s.chkPending = true ∧ s.env.rst = false ∧ s.env.argsOk = true ∧ s.cfg.valid = true ∧
      ∃ c, c < s.cfg.ntx ∧ s.env.txSinkOk.getD c false = false) ∧
    (∃ s : State, s.chkPending = true ∧ s.env.rst = false ∧ s.env.argsOk = true ∧ s.cfg.valid = true ∧ s.env.devOk = false ∧
      ∀ c, c < s.cfg.ntx → s.env.txSinkOk.getD c false = true) ∧
    (∃ s : State, s.chkPending = true ∧ s.env.rst = false ∧ s.env.argsOk = true ∧ s.cfg.valid = true ∧ s.env.devOk = true ∧
      (∀ c, c < s.cfg.ntx → s.env.txSinkOk.getD c false = true) ∧ s.rx.length = s.cfg.nrx ∧ 0 < s.cfg.nrx) ∧
    (∃ s : State, s.chkPending = false) ∧ ∃ s : State, s.env.rst = true :=
  ⟨⟨starting false [] true [], rfl, rfl, rfl⟩,
    ⟨let s := starting true [] true []; { s with cfg := { s.cfg with nbTx := [0, 4] } }, rfl, rfl, rfl, by decide⟩,
    ⟨starting true [true] true [], rfl, rfl, rfl, by decide, 1, by decide, rfl⟩,
    ⟨starting true [true, true] false [], rfl, rfl, rfl, by decide, rfl, by decide⟩,
    ⟨starting true [true, true] true [false], rfl, rfl, rfl, by decide, rfl, by decide, rfl, by decide⟩,
    ⟨State.reset, rfl⟩, ⟨State.reset.setEnv { State.reset.env with rst := true }, rfl⟩⟩

/-- A machine stopped by a fatal cause, `rst` as given. -/
def stopped (rst : Bool) : State :=
  let s := txState 4 [txChan [] 0] (sched .wait)
  { s with fatal := true, fatalCode := .cfg, env := { s.env with rst := rst } }

/-- The machine with a receive channel and the fatal state. -/
def stoppedRx : State := { rxState rx1 with fatal := true, fatalCode := .cfg }

theorem witness_FatalStopsEverything : (∃ (i : Instr) (s t : State), s.fatal = true ∧ i ≠ .sysReset ∧
      (i = .sysCfgchk → s.chkPending = false) ∧ exec i s = .next t) ∧
    (stoppedRx.fatal = true ∧ workerStateOf (.rxFill 0) = some (0, .fill) ∧ 0 < stoppedRx.rx.length) ∧
    ((stopped false).fatal = true ∧ phaseOf .txWait = some .wait) ∧
    ((stopped false).fatal = true ∧ (stopped false).chkPending = false ∧ (stopped false).env.rst = false ∧
      (stopped false).script = []) ∧
    (∃ (i : Instr) (s t : State), s.fatal = true ∧ exec i s = .next t ∧ t.fatal = false) ∧
    ((stopped true).fatal = true ∧ (stopped true).env.rst = true) :=
  ⟨⟨.sysCfgchk, stopped false, _, rfl, by decide, fun _ => rfl, next_of_isNext (d := State.reset) (by decide +kernel)⟩,
    ⟨rfl, rfl, by decide⟩, ⟨rfl, rfl⟩, ⟨rfl, rfl, rfl, rfl⟩,
    ⟨.sysReset, stopped true, _, rfl, next_of_isNext (d := State.reset) (by decide +kernel), by decide +kernel⟩, rfl, rfl⟩

theorem witness_FatalOnlyFromTwoCauses : ∃ (i : Instr) (s t : State), exec i s = .next t ∧ t.fatal = true :=
  ⟨.txAbort, aborting, _, next_of_isNext (d := State.reset) (by decide +kernel), by decide +kernel⟩

theorem witness_StoppedChannelsStayStopped :
    (∃ (i : Instr) (s t : State) (k : Nat) (r : RxChan), i ≠ .sysReset ∧ s.chkPending = false ∧ exec i s = .next t ∧
      s.rx[k]? = some r ∧ r.st = .halt) ∧
    ∃ (i : Instr) (s t : State) (c : Nat) (u : TxChan), i ≠ .sysReset ∧ exec i s = .next t ∧ s.tx[c]? = some u ∧
      u.alive = false :=
  ⟨⟨.rxShift 0, rxState (rxChan .halt [] []), _, 0, _, by decide, rfl,
      next_of_isNext (d := State.reset) (by decide +kernel), rfl, rfl⟩,
    ⟨.txDrain, txState 4 [{ txChan [] 0 with alive := false }] { sched .drain with evWr := [true] }, _, 0, _, by decide,
      next_of_isNext (d := State.reset) (by decide +kernel), rfl, rfl⟩⟩

theorem witness_ConfigurationConstantBetweenResets : ∃ s t : State, step s = .next t ∧ s.env.rst = false :=
  ⟨aborting, _, next_of_isNext (d := State.reset) (by decide +kernel), rfl⟩

theorem witness_EnvironmentOnlyMovesPorts :
    (∃ (e : EnvEvent) (s t : State), applyEnv e s = .next t) ∧ (∃ s : State, s.env.rst = false) ∧
    ∃ s : State, s.chkPending = true ∧ s.env.rst = false :=
  ⟨⟨.txReady 0, txState 4 [txChan [] 0] (sched .wait), _, next_of_isNext (d := State.reset) (by decide +kernel)⟩,
    ⟨State.reset, rfl⟩, ⟨starting true [] true [], rfl, rfl⟩⟩

/-- The greatest real count of R62 (c), and one channel that is full. -/
theorem witness_StatusOutputsShowState : ∃ u : TxChan, u.real ≤ 12942 ∧ u.real = 12942 ∧ (txStatus u).2.toNat = 12942 :=
  ⟨txChan [] 12942, by decide, rfl, rfl⟩

theorem witness_StepRunsDecodedOperation :
    (∃ (s : State) (slot : List Byte) (rest : List Move) (i : Instr), s.script = .op slot :: rest ∧ fetchWord slot = .ok i) ∧
    (∃ (s : State) (slot : List Byte) (rest : List Move) (e : DecodeError), s.script = .op slot :: rest ∧
      fetchWord slot = .error e) ∧
    (∃ (s : State) (e : EnvEvent) (rest : List Move), s.script = .env e :: rest) ∧
    (∃ (s : State) (turn : Nat) (i : Instr), s.script = [] ∧ arbiter s = some (turn, i)) ∧
    ∃ s : State, s.script = [] ∧ arbiter s = none :=
  ⟨⟨State.reset.withFetchWord 8 0x40, _, [], .txWait, rfl, by decide +kernel⟩,
    ⟨State.reset.withFetchWord 8 0x06, _, [], .unknownOperation 0x06, rfl, by decide +kernel⟩,
    ⟨{ State.reset with script := [.env .devWithdraw] }, _, [], rfl⟩,
    ⟨aborting, 1, .txAbort, rfl, by decide +kernel⟩, ⟨State.reset, rfl, by decide +kernel⟩⟩

theorem witness_ArbiterFollowsSequencingRegisters :
    (∃ (s : State) (turn : Nat) (k : Nat), arbiter s = some (turn, .rxShift k) ∧ s.env.rst = false ∧ s.chkPending = false) ∧
    ∃ (s : State) (turn : Nat), arbiter s = some (turn, .txAbort) ∧ s.env.rst = false ∧ s.chkPending = false :=
  ⟨⟨rxState (rxChan .shift [] []), 1, 0, by decide +kernel, rfl, rfl⟩, ⟨aborting, 1, by decide +kernel, rfl, rfl⟩⟩

/-- A machine whose worker has halted and whose scheduler has an empty slot, in the phase `ph`. -/
def resting (ph : Phase) : State :=
  { rxState { rx1 with st := .halt, haltCode := .rxEos } with sch := { resetSched bitCfg resetPend with ph := ph } }

/-- It meets the invariant. -/
theorem resting_inv (ph : Phase) : StateInv (resting ph) := by
  have hq : (resetTx (resting ph).cfg 0).q.length = (resting ph).cfg.wTx 0 := by
    simp only [resetTx, fillerBits_length]
  have hs : SchInv (resting ph).cfg (resting ph).sch :=
    ⟨rfl, Nat.zero_le _, Nat.zero_le _, fun _ => Nat.one_pos, fun _ _ => rfl⟩
  have hp : (resting ph).sch.pendData.length = mtu := List.length_replicate ..
  refine ⟨(memory_wf_iff _).2 ⟨rfl, rfl, ?_, ?_, hp⟩, ?_, ?_, hs, rfl, fun h => by cases h⟩
  · intro k r h
    match k, h with
    | 0, h =>
      obtain rfl := Option.some.inj h
      refine ⟨List.length_replicate .., List.length_replicate .., fun x hx => ?_⟩
      obtain rfl := (List.mem_replicate.1 hx).2
      exact softOk_zero _
  · intro c t h
    match c, h with
    | 0, h => obtain rfl := Option.some.inj h; exact hq
  · intro k r h
    match k, h with
    | 0, h =>
      obtain rfl := Option.some.inj h
      exact ⟨rfl, ⟨fun _ => .inr rfl, fun _ => rfl⟩, Nat.zero_le _, by simp [rx1], by
        show (List.replicate 12943 false).drop 12942 = List.replicate 1 false
        rw [List.drop_replicate], by
        show (List.replicate 12943 (0 : Int)).drop 12942 = List.replicate 1 0
        rw [List.drop_replicate], ⟨Nat.zero_le _, Nat.zero_le _⟩, by simp [rx1],
        fun _ _ => rfl, ⟨fun _ => .inl rfl, fun _ => rfl⟩, fun h => absurd rfl h⟩
  · intro c t h
    match c, h with
    | 0, h =>
      obtain rfl := Option.some.inj h
      refine ⟨Nat.zero_le _, fun _ i _ hi => ?_⟩
      have hi : i < bitCfg.wTx 0 := hi
      simp only [resetTx, fillerBits, List.getElem?_map, List.getElem?_range hi, Option.map_some]

theorem witness_QuietMachineWaits : StateInv (resting .wait) ∧ arbiter (resting .wait) = none ∧
    (∃ k st, workerStateOf (.rxFill 0) = some (k, st) ∧ k < (resting .wait).cfg.nrx) ∧ ∃ ph, phaseOf .txWait = some ph :=
  ⟨resting_inv .wait, by decide +kernel, ⟨0, .fill, rfl, by decide⟩, .wait, rfl⟩

theorem witness_DecodeInvertsEncode : (Instr.lenEnc 1600).wf = true ∧ (Instr.rxFill 65535).wf = true := by decide

theorem witness_DecodedIsWellFormed : ∃ (w rest : List Byte) (i : Instr), decode w = .ok (i, rest) :=
  ⟨[0x02, 0x40, 0x06, 0x99], [0x99], .lenEnc 1600, by decide +kernel⟩

/-- The hypotheses of the statements about every step, met by a step that runs TX.ASSIGN. -/
theorem witness_StepKeepsInvariant : ∃ s t : State, StateInv s ∧ step s = .next t :=
  ⟨resting .assign, _, resting_inv .assign, next_of_isNext (d := State.reset) (by decide +kernel)⟩

theorem witness_StepNeverFaults : ∃ s : State, StateInv s := ⟨resting .drain, resting_inv .drain⟩

theorem witness_TransfersHaveContractSizes : ∃ s t : State, StateInv s ∧ step s = .next t :=
  ⟨resting .assign, _, resting_inv .assign, next_of_isNext (d := State.reset) (by decide +kernel)⟩

end Sys2Proof.Tests
end

/-! Encoding family (30_encoding.md). The footer of R106 to R108: what stands at each position of an interleaving, what the
mask does to a linear encoder, and from both the complementary pairs. Then the reserved operations and codes of R124. -/

namespace Sys2Proof.Proofs.Encoding

open Sys2Proof Sys2Proof.Machine

/-! Lists that hold one pair per element. -/

theorem flatMap_pair_getElem? {α β : Type} (f g : α → β) (l : List α) (i : Nat) :
    (l.flatMap fun x => [f x, g x])[2 * i]? = l[i]?.map f ∧
      (l.flatMap fun x => [f x, g x])[2 * i + 1]? = l[i]?.map g := by
  induction l generalizing i with
  | nil => simp
  | cons x xs ih =>
    cases i with
    | zero => simp
    | succ i => simpa [Nat.mul_succ] using ih i

/-- A pair of a bit and its complement holds one 1, whatever the bit. -/
theorem flatMap_complementary_ones {α : Type} (f : α → Bool) (l : List α) :
    ((l.flatMap fun x => [f x, !f x]).filter id).length = l.length := by
  induction l with
  | nil => rfl
  | cons x xs ih => cases h : f x <;> simpa [h] using ih

/-! The interleaving (R142). -/

theorem lenIlv_getElem?_even (a b : Codeword) {i : Nat} (hi : i < 23) : (lenIlv a b)[2 * i]? = some (a.getLsbD i) := by
  simp [lenIlv, flatMap_pair_getElem?, hi]

theorem lenIlv_getElem?_odd (a b : Codeword) {i : Nat} (hi : i < 23) : (lenIlv a b)[2 * i + 1]? = some (b.getLsbD i) := by
  simp [lenIlv, flatMap_pair_getElem?, hi]

/-! Codewords under the mask (R141). -/

/-- `0x7FFFFF` is all of a codeword's ones. -/
theorem getLsbD_xor_ones (a : Codeword) {i : Nat} (hi : i < 23) : (a ^^^ 0x7FFFFF).getLsbD i = !a.getLsbD i := by
  rw [show (0x7FFFFF : Codeword) = BitVec.allOnes 23 from rfl, BitVec.getLsbD_xor, BitVec.getLsbD_allOnes]
  simp [hi]

/-- By linearity the mask goes through the encoder, where it is all ones. -/
theorem lenEnc_snd_eq_xor {g : Cfg} (linear : G1 (golayEnc g)) (ones : G3 (golayEnc g)) (len : Nat) :
    (lenEnc g len).2 = (lenEnc g len).1 ^^^ 0x7FFFFF :=
  calc golayEnc g (lengthWordOf len ^^^ lenMask)
      _ = golayEnc g (lengthWordOf len) ^^^ golayEnc g lenMask := linear.2 _ _
      _ = golayEnc g (lengthWordOf len) ^^^ 0x7FFFFF := congrArg _ ones

/-- Interleaved with its complement, a codeword has 23 ones in all. -/
theorem lenIlv_complement_ones (a : Codeword) : ((lenIlv a (a ^^^ 0x7FFFFF)).filter id).length = 23 := by
  have pairs : lenIlv a (a ^^^ 0x7FFFFF) = (List.range 23).flatMap fun i => [a.getLsbD i, !a.getLsbD i] :=
    List.flatMap_congr fun i hi => by rw [getLsbD_xor_ones a (List.mem_range.1 hi)]
  rw [pairs, flatMap_complementary_ones, List.length_range]

/-! The default encoder. -/

/-- The encoder reads nothing of the configuration but its rows. -/
theorem golayEnc_congr {g g' : Cfg} (h : g.golay = g'.golay) : golayEnc g = golayEnc g' := by
  funext v
  rw [golayEnc, golayEnc, h]

theorem default_G1_G3 {g : Cfg} (h : g.golay = golayDefaultRows) : G1 (golayEnc g) ∧ G3 (golayEnc g) := by
  have same : golayEnc g = golayEnc testCfg := golayEnc_congr h
  rw [same]
  exact Tests.testCfg_G1_G3

/-- Settles O4: codeword B is the complement of A by linearity, and the rest is read off the interleaving of the two. -/
theorem lengthCodewordsComplementary : Obligations.LengthCodewordsComplementary := by
  refine ⟨fun g linear ones len _ => ?_, fun g => default_G1_G3⟩
  have complement := lenEnc_snd_eq_xor linear ones len
  refine ⟨complement, fun i hi => ?_, ?_⟩
  · rw [footerOf, lenIlv_getElem?_odd _ _ hi, lenIlv_getElem?_even _ _ hi, complement, getLsbD_xor_ones _ hi, Option.map_some]
  · rw [footerOf, complement, lenIlv_complement_ones]

/-! The reserved operations and codes (R124). -/

theorem exec_lenVote (s : State) : exec .lenVote s = .refused (.reservedOperation "LEN.VOTE") := rfl

theorem exec_uwHard (s : State) : exec .uwHard s = .refused (.reservedOperation "UW.HARD") := rfl

theorem rxSt_code_not_reserved (st : RxSt) : st.code ≠ 5 ∧ st.code ≠ 6 := by
  cases st <;> decide

theorem cause_code_not_reserved (c : Cause) : c.code ≠ 5 ∧ c.code ≠ 6 ∧ c.code ≠ 7 ∧ c.code ≠ 15 := by
  cases c <;> decide

/-- Settles O20: `exec` refuses both by name, and no constructor of a state or a cause carries a reserved code. -/
theorem reservedOperationsRefused : Obligations.ReservedOperationsRefused :=
  ⟨fun s => ⟨exec_lenVote s, exec_uwHard s⟩, rfl, rfl, rxSt_code_not_reserved, cause_code_not_reserved⟩

end Sys2Proof.Proofs.Encoding

/-! Length codec family (40_length_codec.md). What a codeword scores against another received at one amplitude: 23a, less 2a for
every position in which the two differ (R143). So a noiseless codeword scores 23a against itself and, under G2, less against
every other, and the scan over the candidates finds it. -/

namespace Sys2Proof.Proofs.LengthCodec

open Sys2Proof Sys2Proof.Machine

/-! Correlations with a sequence received at one amplitude. -/

/-- A position adds `a` where the two bits agree and takes `a` away where they differ. -/
theorem soft_hard (a : Int) (b c : Bool) : soft b (if c then a else -a) = if b ^^ c then -a else a := by
  cases b <;> cases c <;> simp

theorem corr_hardSoft {α : Type} (a : Int) (p q : α → Bool) (l : List α) :
    corr (l.map p) (hardSoft a (l.map q)) = (l.length - 2 * (l.filter fun x => p x ^^ q x).length) * a := by
  induction l with
  | nil => simp
  | cons x xs ih =>
    have step : corr ((x :: xs).map p) (hardSoft a ((x :: xs).map q)) =
        (if p x ^^ q x then -a else a) + corr (xs.map p) (hardSoft a (xs.map q)) := by
      rw [← soft_hard]; rfl
    rw [step, ih]
    cases differ : p x ^^ q x <;> simp [differ] <;> ring

theorem corr_codewords (a : Int) (c d : Codeword) :
    corr (codewordBits c) (hardSoft a (codewordBits d)) = (23 - 2 * codewordDist c d) * a := by
  simp [codewordBits, codewordDist, corr_hardSoft]

@[simp] theorem codewordDist_self (c : Codeword) : codewordDist c c = 0 := by
  simp [codewordDist]

/-! The scan. -/

/-- A scan finds a position that beats every other. -/
theorem scanMax_eq_of_forall_lt {score : Nat → Int} {lo n v : Nat} (hlo : lo ≤ v) (hhi : v ≤ lo + n)
    (best : ∀ p, lo ≤ p → p ≤ lo + n → p ≠ v → score p < score v) : scanMax score lo n = (v, score v) := by
  obtain ⟨lo_le, le_hi, value, max, -⟩ := scanMax_leastMax score lo n
  have found : (scanMax score lo n).1 = v := by
    by_contra other
    have beaten := best _ lo_le le_hi other
    have := max v hlo hhi
    omega
  exact Prod.ext found (value.trans (congrArg score found))

/-! The candidates (R143). -/

/-- Different candidate lengths have different length words under one mask: 12 bits hold every length up to MTU. -/
theorem lengthWordOf_xor_ne {v len : Nat} (hv : v ≤ mtu) (hlen : len ≤ mtu) (ne : v ≠ len) (mask : LengthWord) :
    lengthWordOf v ^^^ mask ≠ lengthWordOf len ^^^ mask := by
  intro same
  have words : lengthWordOf v = lengthWordOf len := BitVec.xor_left_inj mask |>.1 same
  have nats : v % 2 ^ 12 = len % 2 ^ 12 := congrArg BitVec.toNat words
  rw [mtu] at hv hlen
  omega

/-- A noiseless codeword decodes to its length under the mask it was encoded with, with the score of 23 agreements. -/
theorem lenDec_noiseless {g : Cfg} (distance : G2 (golayEnc g)) {len : Nat} (hlen : len ≤ mtu) {a : Int} (ha : 0 < a)
    (par : Bool) :
    lenDec g (hardSoft a (codewordBits (golayEnc g (lengthWordOf len ^^^ parMask par)))) par = (len, 23 * a) := by
  have own : lenScore g (hardSoft a (codewordBits (golayEnc g (lengthWordOf len ^^^ parMask par)))) par len = 23 * a := by
    simp [lenScore, corr_codewords]
  rw [← own]
  refine scanMax_eq_of_forall_lt (Nat.zero_le len) (by omega) fun v _ hv ne => ?_
  have far := distance _ _ (lengthWordOf_xor_ne (by omega) hlen ne (parMask par))
  rw [own, lenScore, corr_codewords]
  exact mul_lt_mul_of_pos_right (by omega) ha

/-- Settles O7: codeword A is encoded under the mask of parity 0, which is none, and codeword B under that of parity 1. -/
theorem lengthRoundTripNoiseless : Obligations.LengthRoundTripNoiseless := by
  intro g distance len a hlen ha
  have direct := lenDec_noiseless distance hlen ha false
  rw [show lengthWordOf len ^^^ parMask false = lengthWordOf len from BitVec.xor_zero] at direct
  exact ⟨direct, lenDec_noiseless distance hlen ha true⟩

end Sys2Proof.Proofs.LengthCodec

/-! Synchronizer family (41_uw_sync.md). Among soft values of one amplitude `a`, a position adds `a` to a score where its hard
decision agrees with the sequence sought, and less where it does not (R18). So an exact copy of the unique word scores 48a, any
other offset of the span scores less, and the scan finds the copy (R162). -/

namespace Sys2Proof.Proofs.UwSync

open Sys2Proof Sys2Proof.Machine

/-! One position. -/

theorem soft_eq_of_agrees {b : Bool} {a s : Int} (agrees : s = if b then a else -a) : soft b s = a := by
  simp [agrees, LengthCodec.soft_hard]

theorem soft_lt_of_differs {b : Bool} {a s : Int} (ha : 0 < a) (amplitude : s = a ∨ s = -a)
    (differs : s ≠ if b then a else -a) : soft b s < a := by
  cases b with
  | true =>
    have opposite : s = -a := amplitude.resolve_left differs
    rw [soft_true]
    omega
  | false =>
    have opposite : s = a := amplitude.resolve_right differs
    rw [soft_false]
    omega

theorem soft_le {b : Bool} {a s : Int} (ha : 0 < a) (amplitude : s = a ∨ s = -a) : soft b s ≤ a := by
  by_cases agrees : s = if b then a else -a
  · exact (soft_eq_of_agrees agrees).le
  · exact (soft_lt_of_differs ha amplitude agrees).le

/-! The sum over `n` positions. -/

theorem softSum_eq_of_agrees {n : Nat} {b : Nat → Bool} {s : Nat → Int} {a : Int}
    (agrees : ∀ i, i < n → s i = if b i then a else -a) : softSum n b s = n * a := by
  have each : (List.range n).map (fun i => soft (b i) (s i)) = (List.range n).map fun _ => a :=
    List.map_congr_left fun i hi => soft_eq_of_agrees (agrees i (List.mem_range.1 hi))
  rw [softSum, each]
  simp

/-- One disagreement is enough to stay below `n` agreements. -/
theorem softSum_lt_of_differs {n : Nat} {b : Nat → Bool} {s : Nat → Int} {a : Int} (ha : 0 < a)
    (amplitude : ∀ i, i < n → s i = a ∨ s i = -a) (differs : ∃ i, i < n ∧ s i ≠ if b i then a else -a) :
    softSum n b s < n * a := by
  obtain ⟨i, hi, ne⟩ := differs
  calc softSum n b s
      _ < ((List.range n).map fun _ => a).sum :=
        List.sum_lt_sum _ _ (fun j hj => soft_le ha (amplitude j (List.mem_range.1 hj)))
          ⟨i, List.mem_range.2 hi, soft_lt_of_differs ha (amplitude i hi) ne⟩
      _ = n * a := by simp

/-! The score and the search (R160, R161). -/

/-- Inside the sequence, the score of an offset is the sum of R160. -/
theorem uwCorr_eq_spec (g : Cfg) {sd : List Soft} {o : Nat} (inside : o + 48 ≤ sd.length) :
    uwCorr g sd o = uwCorrSpec g sd o := by
  rw [uwCorr, corr_eq_softSum _ _ 48 (by simp [Cfg.uwBits, uwLen]) (by simp; omega), uwCorrSpec, softSum, softSum]
  refine congrArg List.sum (List.map_congr_left fun i hi => ?_)
  have bit : g.uwBits.getD i false = g.uw.getLsbD i := by simp [Cfg.uwBits, uwLen, List.mem_range.1 hi]
  have value : (sd.drop o).getD i 0 = sd.getD (o + i) 0 := by simp
  rw [bit, value]

/-- Settles O11: the copy scores 48a, and every other offset disagrees with the unique word somewhere and scores less. -/
theorem uwSearchPeaksAtCopy : Obligations.UwSearchPeaksAtCopy := by
  intro g sd lo hi t a hlo hhi inside ha amplitude copy unique
  have peak : uwCorr g sd t = 48 * a :=
    (uwCorr_eq_spec g (by omega)).trans (softSum_eq_of_agrees copy)
  rw [uwSearch, ← peak]
  refine LengthCodec.scanMax_eq_of_forall_lt hlo (by omega) fun p hp hp' ne => ?_
  rw [peak, uwCorr_eq_spec g (by omega)]
  exact softSum_lt_of_differs ha (fun i lt48 => amplitude (p + i) (by omega) (by omega)) (unique p hp (by omega) ne)

end Sys2Proof.Proofs.UwSync

/-! Word layout of the operations (30_encoding.md R121; entry 3). Each reader takes back what its writer put there, so that
the decoder inverts the encoder; and each reader answers only values of its field, so that what is decoded is well formed. -/

namespace Sys2Proof.Proofs.Layout

open Sys2Proof Sys2Proof.Machine

/-! The readers on what the writers wrote. -/

theorem atLeast_iff (n : Nat) (w : List Byte) : atLeast n w = true ↔ n ≤ w.length := by
  induction n generalizing w with
  | zero => simp [atLeast]
  | succ n ih => cases w <;> simp [atLeast, ih]

@[simp] theorem readThen_ok {α β : Type} (a : α) (w : List Byte) (f : α → List Byte → Read β) :
    readThen (.ok (a, w)) f = f a w := rfl

theorem readBytes_append {n : Nat} {b : List Byte} (hb : b.length = n) (rest : List Byte) :
    readBytes n (b ++ rest) = .ok (b, rest) := by
  subst hb
  have enough : atLeast b.length (b ++ rest) = true := (atLeast_iff _ _).2 (by simp)
  simp [readBytes, enough]

theorem leNat_leBytes {n x : Nat} (hx : x < 256 ^ n) : leNat (leBytes n x) = x := by
  induction n generalizing x with
  | zero => rw [Nat.pow_zero, Nat.lt_one_iff] at hx; simp [leBytes, leNat, hx]
  | succ n ih =>
    have high : x / 256 < 256 ^ n := Nat.div_lt_of_lt_mul (by rwa [Nat.pow_succ, Nat.mul_comm] at hx)
    rw [leBytes, leNat, ih high, BitVec.toNat_ofNat]
    omega

theorem readNat_leBytes {n x : Nat} (hx : x < 256 ^ n) (rest : List Byte) :
    readNat n (leBytes n x ++ rest) = .ok (x, rest) := by
  rw [readNat, readBytes_append (Laws.leBytes_length n x), readThen_ok, leNat_leBytes hx]

theorem readNat_two {x : Nat} (hx : fits16 x = true) (rest : List Byte) :
    readNat 2 (leBytes 2 x ++ rest) = .ok (x, rest) :=
  readNat_leBytes (n := 2) (of_decide_eq_true hx : x < 65536) rest

theorem readLen_leBytes {n : Nat} (hn : n ≤ mtu) (rest : List Byte) :
    readLen (leBytes 2 n ++ rest) = .ok (n, rest) := by
  rw [readLen, readNat_leBytes (lt_of_le_of_lt hn (by decide)), readThen_ok, if_pos hn]

theorem readVec_leBytes {width n : Nat} (room : 2 ^ width ≤ 256 ^ n) (v : BitVec width) (rest : List Byte) :
    readVec width n (leBytes n v.toNat ++ rest) = .ok (v, rest) := by
  rw [readVec, readNat_leBytes (lt_of_lt_of_le v.isLt room), readThen_ok, if_pos v.isLt, BitVec.ofNat_toNat,
    BitVec.setWidth_eq]

/-- A byte is its own field of one byte. -/
theorem readVec_byte (b : Byte) (rest : List Byte) : readVec 8 1 (b :: rest) = .ok (b, rest) := by
  have field : leBytes 1 b.toNat = [b] := by simp [leBytes]
  have read := readVec_leBytes (width := 8) (n := 1) (by decide) b rest
  rwa [field] at read

theorem readBit_bitByte (b : Bool) (rest : List Byte) : readBit (bitByte b :: rest) = .ok (b, rest) := by
  have field : leBytes 1 b.toNat = [bitByte b] := by cases b <;> rfl
  have read := readNat_leBytes (n := 1) (x := b.toNat) (by cases b <;> decide) rest
  rw [field, List.singleton_append] at read
  rw [readBit, read]
  cases b <;> rfl

theorem readBits_bitBytes {n : Nat} {bits : Bits} (hn : bits.length = n) (rest : List Byte) :
    readBits n (bits.map bitByte ++ rest) = .ok (bits, rest) := by
  have legal : (bits.map bitByte).all (fun x => x == 0 || x == 1) = true := by
    simp only [List.all_map, List.all_eq_true]
    rintro (_ | _) - <;> rfl
  have back : (fun x => x == 1) ∘ bitByte = id := funext fun b => by cases b <;> rfl
  rw [readBits, readBytes_append (by simpa using hn), readThen_ok, if_pos legal, List.map_map, back, List.map_id]

/-! Soft decisions. -/

theorem softOfNat_emod {s : Int} (hs : softFits s = true) : softOfNat (s % 4294967296).toNat = s := by
  simp only [softFits, Bool.and_eq_true, decide_eq_true_eq] at hs
  have low : -2147483648 ≤ s := hs.1
  have high : s < 2147483648 := hs.2
  rw [softOfNat]
  split
  · show ((s % 4294967296).toNat : Int) = s
    omega
  · show ((s % 4294967296).toNat : Int) - 4294967296 = s
    omega

theorem softsOf_four (b t : List Byte) (hb : b.length = 4) : softsOf (b ++ t) = softOfNat (leNat b) :: softsOf t := by
  match b, hb with
  | [_, _, _, _], _ => rfl

theorem softsOf_softBytes {s : List Soft} (hs : s.all softFits = true) : softsOf (s.flatMap softBytes) = s := by
  induction s with
  | nil => rfl
  | cons x xs ih =>
    simp only [List.all_cons, Bool.and_eq_true] at hs
    have field : leNat (softBytes x) = (x % 4294967296).toNat := leNat_leBytes (by omega)
    rw [List.flatMap_cons, softsOf_four _ _ (Laws.softBytes_length x), field, softOfNat_emod hs.1, ih hs.2]

theorem readSofts_softBytes {n : Nat} {s : List Soft} (hn : s.length = n) (hs : s.all softFits = true)
    (rest : List Byte) : readSofts n (s.flatMap softBytes ++ rest) = .ok (s, rest) := by
  rw [readSofts, readBytes_append (by rw [Laws.flatMap_softBytes_length, hn]), readThen_ok, softsOf_softBytes hs]

/-! The decoder inverts the encoder. -/

/-- The arm of FRM.DEC as an equation, for rewriting: its offset counts from 12846, a number too large to unfold. -/
theorem decodeOperands_frmDec (w : List Byte) :
    decodeOperands 0x24 w = readThen (readNat 2 w) fun x r => readThen (readNat 2 r) fun e r =>
      readThen (readBits (frmDecMinOffset + x + e) r) fun b r =>
        readThen (readSofts (frmDecMinOffset + x + e) r) fun sd r => .ok (.frmDec b sd (frmDecMinOffset + x), r) := rfl

theorem decode_encode {i : Instr} (wf : i.wf = true) (rest : List Byte) :
    decode (encode i ++ rest) = .ok (i, rest) := by
  rw [encode, List.cons_append, decode]
  cases i with
  | golayEnc | wordCodeword | lenIlv => simp [opNumber, decodeOperands, encodeOperands, readVec_leBytes]
  | lenEnc len | wireFooter len | wordLength len =>
    have hlen : len ≤ mtu := of_decide_eq_true wf
    simp [opNumber, decodeOperands, encodeOperands, readLen_leBytes hlen]
  | lenDec s par =>
    simp only [Instr.wf, Bool.and_eq_true, decide_eq_true_eq] at wf
    simp [opNumber, decodeOperands, encodeOperands, readBit_bitByte, readSofts_softBytes wf.1 wf.2]
  | uwCorr sd o =>
    simp only [Instr.wf, Bool.and_eq_true, decide_eq_true_eq] at wf
    obtain ⟨⟨⟨inside, ho⟩, hrest⟩, hsd⟩ := wf
    have count : sd.length = o + uwLen + (sd.length - (o + uwLen)) := by omega
    simp only [opNumber, decodeOperands, encodeOperands, List.append_assoc]
    simp [readNat_two ho, readNat_two hrest, readSofts_softBytes count hsd]
  | uwSearch sd lo hi =>
    simp only [Instr.wf, Bool.and_eq_true, decide_eq_true_eq] at wf
    obtain ⟨⟨⟨⟨⟨order, inside⟩, hlo⟩, hspan⟩, hrest⟩, hsd⟩ := wf
    have upper : lo + (hi - lo) = hi := by omega
    have count : sd.length = hi + uwLen + (sd.length - (hi + uwLen)) := by omega
    simp only [opNumber, decodeOperands, encodeOperands, List.append_assoc]
    simp [readNat_two hlo, readNat_two hspan, readNat_two hrest, readSofts_softBytes count hsd, upper]
  | scr | wirePayloadByte | wireFrameL1 | wireFrameNoleadL1 =>
    simp [opNumber, decodeOperands, encodeOperands, readVec_byte]
  | ser p =>
    simp only [opNumber, decodeOperands, encodeOperands, List.append_assoc]
    simp [readNat_two wf, readBytes_append]
  | deser bits =>
    simp only [Instr.wf, Bool.and_eq_true, decide_eq_true_eq] at wf
    have count : bits.length = 8 * (bits.length / 8) := by omega
    simp only [opNumber, decodeOperands, encodeOperands, List.append_assoc]
    simp [readNat_two wf.2, readBits_bitBytes count]
  | frmEnc p lead =>
    have hlen : p.length ≤ mtu := of_decide_eq_true wf
    simp only [opNumber, decodeOperands, encodeOperands, List.cons_append, List.append_assoc]
    simp [readBit_bitByte, readLen_leBytes hlen, readBytes_append]
  | frmDec bits sd o =>
    simp only [Instr.wf, Bool.and_eq_true, decide_eq_true_eq] at wf
    obtain ⟨⟨⟨⟨⟨same, low⟩, high⟩, hx⟩, hrest⟩, hsd⟩ := wf
    have offset : frmDecMinOffset + (o - frmDecMinOffset) = o := by omega
    have count : sd.length = o + (sd.length - o) := by omega
    simp only [opNumber, encodeOperands, List.append_assoc]
    rw [decodeOperands_frmDec, readNat_two hx, readThen_ok, readNat_two hrest, readThen_ok, offset,
      readBits_bitBytes (same.trans count), readThen_ok, readSofts_softBytes count hsd, readThen_ok]
  | filler | rxFill | rxSearch | rxValidate | rxExtract | rxShift | rxHalt =>
    simp [opNumber, decodeOperands, encodeOperands, readNat_two wf]
  | txWait | txDevrd | txAssign | txDrain | txFail | txAbort | sysReset | sysCfgchk | lenVote | uwHard | wireUw
  | wireFiller => rfl

/-- Settles O54: the decoder takes back what the encoder wrote, and the zeros a fetch appends are bytes after the word. -/
theorem decodeInvertsEncode : Obligations.DecodeInvertsEncode := by
  intro i wf
  exact ⟨decode_encode wf, by rw [fetchWord, decode_encode wf]⟩

/-! What a reader answers lies in its field. -/

/-- Every value the reader answers has the property. -/
def Yields {α : Type} (r : Read α) (P : α → Prop) : Prop := ∀ a w, r = .ok (a, w) → P a

theorem yields_ok {α : Type} {P : α → Prop} {a : α} {w : List Byte} (h : P a) : Yields (.ok (a, w)) P := by
  rintro _ _ ⟨⟩
  exact h

theorem yields_error {α : Type} {P : α → Prop} (e : DecodeError) : Yields (.error e : Read α) P := by
  rintro _ _ ⟨⟩

theorem yields_ite {α : Type} {P : α → Prop} {c : Prop} [Decidable c] {a : α} {w : List Byte} {e : DecodeError}
    (h : c → P a) : Yields (if c then .ok (a, w) else .error e) P := by
  split
  · next hc => exact yields_ok (h hc)
  · exact yields_error e

theorem Yields.andThen {α β : Type} {r : Read α} {f : α → List Byte → Read β} {P : α → Prop} {Q : β → Prop}
    (h : Yields r P) (hf : ∀ a w, P a → Yields (f a w) Q) : Yields (readThen r f) Q := by
  match r with
  | .ok (a, w) => exact hf a w (h a w rfl)
  | .error e => exact yields_error e

theorem readBytes_yields (n : Nat) (w : List Byte) : Yields (readBytes n w) fun b => b.length = n :=
  yields_ite fun enough => by
    have := (atLeast_iff n w).1 enough
    simp [this]

theorem leNat_lt (b : List Byte) : leNat b < 256 ^ b.length := by
  induction b with
  | nil => simp [leNat]
  | cons x xs ih =>
    have := x.isLt
    rw [leNat, List.length_cons, Nat.pow_succ]
    omega

theorem readNat_yields (n : Nat) (w : List Byte) : Yields (readNat n w) fun x => x < 256 ^ n :=
  (readBytes_yields n w).andThen fun b _ hb => yields_ok (hb ▸ leNat_lt b)

theorem readNat_two_yields (w : List Byte) : Yields (readNat 2 w) fun x => fits16 x = true := by
  intro x r h
  exact decide_eq_true (readNat_yields 2 w x r h : x < 65536)

theorem readLen_yields (w : List Byte) : Yields (readLen w) fun n => n ≤ mtu :=
  (readNat_yields 2 w).andThen fun _ _ _ => yields_ite id

theorem readBits_yields (n : Nat) (w : List Byte) : Yields (readBits n w) fun b => b.length = n :=
  (readBytes_yields n w).andThen fun _ _ hb => yields_ite fun _ => (List.length_map _).trans hb

theorem softOfNat_fits {x : Nat} (hx : x < 4294967296) : softFits (softOfNat x) = true := by
  rw [softOfNat, softFits, Bool.and_eq_true, decide_eq_true_eq, decide_eq_true_eq]
  split
  · show -2147483648 ≤ (x : Int) ∧ (x : Int) < 2147483648
    omega
  · show -2147483648 ≤ (x : Int) - 4294967296 ∧ (x : Int) - 4294967296 < 2147483648
    omega

theorem softsOf_spec {n : Nat} {b : List Byte} (hb : b.length = 4 * n) :
    (softsOf b).length = n ∧ (softsOf b).all softFits = true := by
  induction n generalizing b with
  | zero => obtain rfl := List.length_eq_zero_iff.1 hb; exact ⟨rfl, rfl⟩
  | succ n ih =>
    have four : (b.take 4).length = 4 := by rw [List.length_take]; omega
    have fits : softFits (softOfNat (leNat (b.take 4))) = true := by
      have bound := leNat_lt (b.take 4)
      rw [four] at bound
      exact softOfNat_fits bound
    obtain ⟨count, rest⟩ := ih (b := b.drop 4) (by rw [List.length_drop]; omega)
    rw [← List.take_append_drop 4 b, softsOf_four _ _ four]
    exact ⟨congrArg Nat.succ count, by rw [List.all_cons, fits, rest]; rfl⟩

theorem readSofts_yields (n : Nat) (w : List Byte) :
    Yields (readSofts n w) fun s => s.length = n ∧ s.all softFits = true :=
  (readBytes_yields (4 * n) w).andThen fun _ _ hb => yields_ok (softsOf_spec hb)

/-! What is decoded is well formed. An operation whose operands are one index or count of 16 bits, one length or one bit
vector is read by the reader of that field; those with sequences are below. -/

def WellFormed (i : Instr) : Prop := i.wf = true

theorem index_yields {f : Nat → Instr} (wf : ∀ k, (f k).wf = fits16 k) (w : List Byte) :
    Yields (readThen (readNat 2 w) fun k r => .ok (f k, r)) WellFormed :=
  (readNat_two_yields w).andThen fun k _ hk => yields_ok ((wf k).trans hk)

theorem length_yields {f : Nat → Instr} (wf : ∀ n, (f n).wf = decide (n ≤ mtu)) (w : List Byte) :
    Yields (readThen (readLen w) fun n r => .ok (f n, r)) WellFormed :=
  (readLen_yields w).andThen fun n _ hn => yields_ok ((wf n).trans (decide_eq_true hn))

theorem anyVec_yields (width n : Nat) (w : List Byte) : Yields (readVec width n w) fun _ => True := fun _ _ _ => trivial

theorem vec_yields {width n : Nat} {f : BitVec width → Instr} (wf : ∀ v, (f v).wf = true) (w : List Byte) :
    Yields (readThen (readVec width n w) fun v r => .ok (f v, r)) WellFormed :=
  (anyVec_yields width n w).andThen fun v _ _ => yields_ok (wf v)

theorem anyBit_yields (w : List Byte) : Yields (readBit w) fun _ => True := fun _ _ _ => trivial

theorem lenDec_yields (w : List Byte) :
    Yields (readThen (readBit w) fun p r => readThen (readSofts 23 r) fun s r => .ok (.lenDec s p, r)) WellFormed :=
  (anyBit_yields w).andThen fun _ r _ => (readSofts_yields 23 r).andThen fun s _ ⟨count, fits⟩ =>
    yields_ok (by simp only [WellFormed, Instr.wf, count, fits]; rfl)

theorem uwCorr_yields (w : List Byte) :
    Yields (readThen (readNat 2 w) fun o r => readThen (readNat 2 r) fun e r =>
      readThen (readSofts (o + uwLen + e) r) fun sd r => .ok (.uwCorr sd o, r)) WellFormed :=
  (readNat_two_yields w).andThen fun o r ho => (readNat_two_yields r).andThen fun e r he =>
    (readSofts_yields _ r).andThen fun sd _ ⟨count, fits⟩ => yields_ok (by
      have rest : sd.length - (o + uwLen) = e := by omega
      have inside : o + uwLen ≤ sd.length := by omega
      simp [WellFormed, Instr.wf, inside, rest, ho, he, fits])

theorem uwSearch_yields (w : List Byte) :
    Yields (readThen (readNat 2 w) fun lo r => readThen (readNat 2 r) fun d r => readThen (readNat 2 r) fun e r =>
      readThen (readSofts (lo + d + uwLen + e) r) fun sd r => .ok (.uwSearch sd lo (lo + d), r)) WellFormed :=
  (readNat_two_yields w).andThen fun lo r hlo => (readNat_two_yields r).andThen fun d r hd =>
    (readNat_two_yields r).andThen fun e r he => (readSofts_yields _ r).andThen fun sd _ ⟨count, fits⟩ => yields_ok (by
      have rest : sd.length - (lo + d + uwLen) = e := by omega
      have inside : lo + d + uwLen ≤ sd.length := by omega
      simp [WellFormed, Instr.wf, inside, rest, hlo, hd, he, fits])

theorem ser_yields (w : List Byte) :
    Yields (readThen (readNat 2 w) fun n r => readThen (readBytes n r) fun p r => .ok (.ser p, r)) WellFormed :=
  (readNat_two_yields w).andThen fun n r hn => (readBytes_yields n r).andThen fun p _ count =>
    yields_ok (by rw [WellFormed, Instr.wf, count, hn])

theorem deser_yields (w : List Byte) :
    Yields (readThen (readNat 2 w) fun n r => readThen (readBits (8 * n) r) fun b r => .ok (.deser b, r)) WellFormed :=
  (readNat_two_yields w).andThen fun n r hn => (readBits_yields _ r).andThen fun b _ count => yields_ok (by
    simp [WellFormed, Instr.wf, count, hn])

theorem frmEnc_yields (w : List Byte) :
    Yields (readThen (readBit w) fun l r => readThen (readLen r) fun n r =>
      readThen (readBytes n r) fun p r => .ok (.frmEnc p l, r)) WellFormed :=
  (anyBit_yields w).andThen fun _ r _ => (readLen_yields r).andThen fun n r hn =>
    (readBytes_yields n r).andThen fun p _ count => yields_ok (by rw [WellFormed, Instr.wf, count]; exact decide_eq_true hn)

theorem frmDec_yields (w : List Byte) : Yields (decodeOperands 0x24 w) WellFormed := by
  rw [decodeOperands_frmDec]
  refine (readNat_two_yields w).andThen fun x r hx => (readNat_two_yields r).andThen fun e r he =>
    (readBits_yields _ r).andThen fun b r bitCount => (readSofts_yields _ r).andThen fun sd _ ⟨count, fits⟩ => yields_ok ?_
  generalize hm : frmDecMinOffset = m at bitCount count ⊢
  have rest : sd.length - (m + x) = e := by omega
  have inside : m + x ≤ sd.length := by omega
  simp [WellFormed, Instr.wf, hm, bitCount, ← count, inside, rest, hx, he, fits]

theorem decodeOperands_yields (op : Byte) (w : List Byte) : Yields (decodeOperands op w) WellFormed := by
  by_cases isFrmDec : op = 0x24
  · rw [isFrmDec]; exact frmDec_yields w
  unfold decodeOperands
  split
  · exact vec_yields (fun _ => rfl) w
  · exact length_yields (fun _ => rfl) w
  · exact (anyVec_yields 23 3 w).andThen fun _ r _ => vec_yields (fun _ => rfl) r
  · exact lenDec_yields w
  · exact yields_ok rfl
  · exact uwCorr_yields w
  · exact uwSearch_yields w
  · exact yields_ok rfl
  · exact vec_yields (fun _ => rfl) w
  · exact ser_yields w
  · exact deser_yields w
  · exact frmEnc_yields w
  · next h => exact absurd (BitVec.eq_of_toNat_eq h) isFrmDec
  · exact index_yields (fun _ => rfl) w
  · exact index_yields (fun _ => rfl) w
  · exact index_yields (fun _ => rfl) w
  · exact index_yields (fun _ => rfl) w
  · exact index_yields (fun _ => rfl) w
  · exact index_yields (fun _ => rfl) w
  · exact index_yields (fun _ => rfl) w
  · exact yields_ok rfl
  · exact yields_ok rfl
  · exact yields_ok rfl
  · exact yields_ok rfl
  · exact yields_ok rfl
  · exact yields_ok rfl
  · exact yields_ok rfl
  · exact yields_ok rfl
  · exact yields_ok rfl
  · exact vec_yields (fun _ => rfl) w
  · exact length_yields (fun _ => rfl) w
  · exact yields_ok rfl
  · exact vec_yields (fun _ => rfl) w
  · exact vec_yields (fun _ => rfl) w
  · exact length_yields (fun _ => rfl) w
  · exact vec_yields (fun _ => rfl) w
  · exact yields_error _

/-- Settles O55: each operand is read by the reader of its field, and the fields are those of well-formedness. -/
theorem decodedIsWellFormed : Obligations.DecodedIsWellFormed := by
  intro w rest i h
  cases w with
  | nil => cases h
  | cons op w => exact decodeOperands_yields op w i rest h

/-- A fetched operation is well formed. -/
theorem fetchWord_wf {slot : List Byte} {i : Instr} (h : fetchWord slot = .ok i) : i.wf = true := by
  rw [fetchWord] at h
  split at h
  · next j rest decoded => cases h; exact decodedIsWellFormed _ rest _ decoded
  · cases h

/-- Settles O56: the decoder's own tests evaluate all but the first and the last of these words. -/
theorem spelledWordsDecode : Obligations.SpelledWordsDecode :=
  ⟨by decide +kernel, Tests.test_decode_lenEnc, Tests.test_decode_uwCorr, Tests.test_decode_uwHard,
    Tests.test_decode_scr, Tests.test_decode_frmEnc, Tests.test_decode_rxFill, Tests.test_decode_rxShift,
    Tests.test_decode_txWait, Tests.test_decode_txAbort, Tests.test_decode_sysReset, Tests.test_decode_lenVote,
    Tests.test_decode_wireFiller, by decide +kernel⟩

end Sys2Proof.Proofs.Layout

/-! Length codec as instructions (40_length_codec.md): the encoder and its default body (R140), the pair of codewords (R141), the
interleaving as a bijection (R142), and the decoder as a search for the least best candidate (R143, R148). -/

namespace Sys2Proof.Proofs.LengthOps

open Sys2Proof Sys2Proof.Machine

/-! The encoder is linear (R140 G1). -/

theorem xorRows_zero (rs : List Codeword) (i : Nat) : xorRows rs i 0 = 0 := by
  induction rs generalizing i with
  | nil => rfl
  | cons r rs ih => simpa [xorRows] using ih (i + 1)

theorem golayEnc_linear (g : Cfg) : G1 (golayEnc g) :=
  ⟨xorRows_zero _ 0, Tests.xorRows_xor _ 0⟩

/-- A value with one bit set picks that bit's row, and none where the rows start above it or end below it. -/
theorem xorRows_twoPow (rs : List Codeword) (i j : Nat) (hj : j < 12) :
    xorRows rs i (BitVec.twoPow 12 j) = if i ≤ j then rs.getD (j - i) 0 else 0 := by
  induction rs generalizing i with
  | nil => simp [xorRows]
  | cons r rs ih =>
    rw [xorRows, ih, BitVec.getLsbD_twoPow]
    rcases Nat.lt_trichotomy i j with lt | rfl | gt
    · obtain ⟨d, rfl⟩ := Nat.exists_eq_add_of_lt lt
      have other : (i + d + 1 = i) = False := eq_false (by omega)
      simp [other, show i + 1 ≤ i + d + 1 by omega, show i ≤ i + d + 1 by omega, show i + d + 1 - i = d + 1 by omega]
    · simp [hj]
    · simp [show ¬ i ≤ j by omega, show ¬ i + 1 ≤ j by omega, show j ≠ i by omega]

theorem golayEnc_twoPow (g : Cfg) (i : Fin 12) : golayEnc g (BitVec.twoPow 12 i) = g.golay[i] := by
  rw [golayEnc, xorRows_twoPow _ _ _ i.isLt]
  simp

theorem exec_golayEnc (v : LengthWord) (s : State) :
    exec (.golayEnc v) s = .next (s.setRet (.codeword (golayEnc s.cfg v))) := rfl

/-- Settles O1: the encoder is the XOR of the rows of the bits set, which is linear and picks one row for one bit. -/
theorem golayEncReturnsCodeword : Obligations.GolayEncReturnsCodeword :=
  ⟨fun s v => exec_golayEnc v s, fun g => ⟨golayEnc_linear g, golayEnc_twoPow g⟩⟩

/-! The division of the default body is linear, and leaves a remainder below bit 11. -/

theorem golayDivStep_xor (a b : Codeword) (x : Nat) :
    golayDivStep (a ^^^ b) x = golayDivStep a x ^^^ golayDivStep b x := by
  simp only [golayDivStep, BitVec.getLsbD_xor]
  cases a.getLsbD (11 + x) <;> cases b.getLsbD (11 + x) <;> simp
  · ac_rfl
  · ac_rfl
  · rw [show a ^^^ (3189#23 <<< x) ^^^ (b ^^^ 3189#23 <<< x) = a ^^^ b ^^^ ((3189#23 <<< x) ^^^ (3189#23 <<< x)) by ac_rfl]
    simp

/-- The division steps for the bits from `11 + n - 1` down to 11. -/
def golayRemainder (n : Nat) (c : Codeword) : Codeword := (List.range n).reverse.foldl golayDivStep c

theorem golayRemainder_succ (n : Nat) (c : Codeword) :
    golayRemainder (n + 1) c = golayRemainder n (golayDivStep c n) := by
  simp [golayRemainder, List.range_succ]

theorem golayRemainder_xor (n : Nat) (a b : Codeword) :
    golayRemainder n (a ^^^ b) = golayRemainder n a ^^^ golayRemainder n b := by
  induction n generalizing a b with
  | zero => rfl
  | succ n ih => rw [golayRemainder_succ, golayRemainder_succ, golayRemainder_succ, golayDivStep_xor, ih]

/-- The divisor shifted to bit `11 + n` has that bit set and none above it. -/
theorem divisor_high (n i : Nat) (hn : n < 12) (hi : 11 + n ≤ i) :
    ((0xC75 : Codeword) <<< n).getLsbD i = decide (i = 11 + n) := by
  have high (j : Nat) (hj : 12 ≤ j) : (3189#23).getLsbD j = false := by
    rw [BitVec.getLsbD_ofNat, Nat.testBit_lt_two_pow (lt_of_lt_of_le (by decide) (Nat.pow_le_pow_right (by decide) hj)),
      Bool.and_false]
  rw [BitVec.getLsbD_shiftLeft]
  rcases Nat.eq_or_lt_of_le hi with rfl | gt
  · simp [show 11 + n < 23 by omega]
  · have above := high (i - n) (by omega)
    simp [above, show i ≠ 11 + n by omega]

/-- A division step clears its bit, so that one bit less stands at or above bit 11. -/
theorem golayDivStep_high {n : Nat} {c : Codeword} (hn : n < 12) (hc : ∀ i, 11 + (n + 1) ≤ i → c.getLsbD i = false)
    (i : Nat) (hi : 11 + n ≤ i) : (golayDivStep c n).getLsbD i = false := by
  rw [golayDivStep]
  split
  · next set =>
    rw [BitVec.getLsbD_xor, divisor_high n i hn hi]
    rcases Nat.eq_or_lt_of_le hi with rfl | gt
    · simp [set]
    · simp [hc i (by omega), show i ≠ 11 + n by omega]
  · next clear =>
    rcases Nat.eq_or_lt_of_le hi with rfl | gt
    · simpa using clear
    · exact hc i (by omega)

theorem golayRemainder_high {n : Nat} {c : Codeword} (hn : n ≤ 12) (hc : ∀ i, 11 + n ≤ i → c.getLsbD i = false)
    (i : Nat) (hi : 11 ≤ i) : (golayRemainder n c).getLsbD i = false := by
  induction n generalizing c with
  | zero => exact hc i hi
  | succ n ih =>
    rw [golayRemainder_succ]
    exact ih (by omega) (golayDivStep_high (by omega) hc)

/-- The data of a codeword in its bits 22..11 (R140). -/
def golayData (v : LengthWord) : Codeword := v.setWidth 23 <<< 11

theorem golayData_xor (a b : LengthWord) : golayData (a ^^^ b) = golayData a ^^^ golayData b := by
  rw [golayData, BitVec.setWidth_xor, BitVec.shiftLeft_xor_distrib]; rfl

theorem golayData_remainder_high (v : LengthWord) (i : Nat) (hi : 11 ≤ i) :
    (golayRemainder 12 (golayData v)).getLsbD i = false :=
  golayRemainder_high (le_refl 12) (fun j hj => BitVec.getLsbD_of_ge _ j hj) i hi

theorem golayData_low (v : LengthWord) (i : Nat) (hi : i < 11) : (golayData v).getLsbD i = false := by
  simp [golayData, hi]

/-- Data and remainder meet in no bit, so joining them is adding them. -/
theorem golayPoly_eq (v : LengthWord) : golayPoly v = golayData v ^^^ golayRemainder 12 (golayData v) := by
  have join : golayPoly v = golayData v ||| golayRemainder 12 (golayData v) := rfl
  rw [join]
  apply BitVec.eq_of_getLsbD_eq
  intro i hi
  rw [BitVec.getLsbD_or, BitVec.getLsbD_xor]
  rcases Nat.lt_or_ge i 11 with low | high
  · simp [golayData_low v i low]
  · simp [golayData_remainder_high v i high]

theorem golayPoly_xor (a b : LengthWord) : golayPoly (a ^^^ b) = golayPoly a ^^^ golayPoly b := by
  rw [golayPoly_eq, golayPoly_eq, golayPoly_eq, golayData_xor, golayRemainder_xor]
  ac_rfl

theorem golayPoly_data (v : LengthWord) : (golayPoly v).extractLsb' 11 12 = v := by
  ext i hi
  have remainder := golayData_remainder_high v (11 + i) (by omega)
  rw [golayPoly_eq, BitVec.getElem_extractLsb', BitVec.getLsbD_xor, remainder]
  have bit : (golayData v).getLsbD (11 + i) = v.getLsbD i := by
    simp [golayData, show 11 + i < 23 by omega]
  rw [bit, Bool.xor_false, BitVec.getLsbD_eq_getElem]

/-! Linear encoders that agree on the twelve one-bit values agree. -/

/-- The value of the bits of `v` below bit `n`. -/
def lowBits (v : LengthWord) (n : Nat) : LengthWord := v &&& BitVec.ofNat 12 (2 ^ n - 1)

theorem lowBits_getLsbD (v : LengthWord) (n i : Nat) : (lowBits v n).getLsbD i = (v.getLsbD i && decide (i < n)) := by
  rw [lowBits, BitVec.getLsbD_and, BitVec.getLsbD_ofNat, Nat.testBit_two_pow_sub_one]
  rcases Nat.lt_or_ge i 12 with lt | ge
  · simp [lt]
  · simp [BitVec.getLsbD_of_ge v i ge]

theorem lowBits_succ (v : LengthWord) {n : Nat} (hn : n < 12) :
    lowBits v (n + 1) = lowBits v n ^^^ if v.getLsbD n then BitVec.twoPow 12 n else 0 := by
  apply BitVec.eq_of_getLsbD_eq
  intro i hi
  rw [BitVec.getLsbD_xor, lowBits_getLsbD, lowBits_getLsbD]
  rcases Nat.lt_trichotomy i n with lt | rfl | gt
  · cases v.getLsbD n <;> simp [BitVec.getLsbD_twoPow, show i < n + 1 by omega, lt, show n ≠ i by omega]
  · cases v.getLsbD i <;> simp [hi]
  · cases v.getLsbD n <;> simp [BitVec.getLsbD_twoPow, show ¬ i < n + 1 by omega, show ¬ i < n by omega, show n ≠ i by omega]

theorem linear_ext {f g : LengthWord → Codeword} (hf : G1 f) (hg : G1 g)
    (basis : ∀ i : Fin 12, f (BitVec.twoPow 12 i) = g (BitVec.twoPow 12 i)) (v : LengthWord) : f v = g v := by
  have upTo : ∀ n, n ≤ 12 → f (lowBits v n) = g (lowBits v n) := by
    intro n
    induction n with
    | zero =>
      intro _
      rw [show lowBits v 0 = 0 by simp [lowBits], hf.1, hg.1]
    | succ n ih =>
      intro hn
      rw [lowBits_succ v (by omega), hf.2, hg.2, ih (by omega)]
      split
      · rw [basis ⟨n, by omega⟩]
      · rw [hf.1, hg.1]
  have all : lowBits v 12 = v := BitVec.eq_of_getLsbD_eq fun i hi => by
    rw [lowBits_getLsbD, decide_eq_true hi, Bool.and_true]
  exact all ▸ upTo 12 (le_refl 12)

theorem golayPoly_basis (i : Fin 12) : golayPoly (BitVec.twoPow 12 i) = golayDefaultRows[i] := by
  revert i
  decide +kernel

/-- Settles O2: both encoders are linear and agree on the twelve one-bit values; the division leaves the data where it stands;
the distance and the codeword of 0xFFF are evaluated by the tests of the default configuration. -/
theorem defaultGolayIsPolynomialDivision : Obligations.DefaultGolayIsPolynomialDivision := by
  intro g rows
  have division (v : LengthWord) : golayEnc g v = golayPoly v :=
    linear_ext (golayEnc_linear g) ⟨by decide +kernel, golayPoly_xor⟩
      (fun i => by rw [golayEnc_twoPow, rows, golayPoly_basis]) v
  refine ⟨fun v => ⟨division v, by rw [division, golayPoly_data]⟩, ?_, (Encoding.default_G1_G3 rows).2⟩
  have same : golayEnc g = golayEnc testCfg := Encoding.golayEnc_congr rows
  rw [same]
  exact Tests.testCfg_G2

/-! The pair of a length (R141). -/

/-- Settles O3: the domain test of the operation is the bound of R141. -/
theorem lenEncReturnsPair : Obligations.LenEncReturnsPair := by
  intro s len
  refine ⟨fun inside => ?_, fun outside => ?_⟩
  · show execLenEnc len s = _
    rw [execLenEnc, if_pos inside]
    rfl
  · show execLenEnc len s = _
    rw [execLenEnc, if_neg (Nat.not_le.2 outside)]

/-! The interleaving is a bijection (R142). -/

theorem lenIlv_length (a b : Codeword) : (lenIlv a b).length = 46 := by simp [lenIlv]

/-- The codeword whose bits stand at the positions `2i + r` of a footer. -/
def deinterleave (f : Bits) (r : Nat) : Codeword := BitVec.ofFnLE fun i : Fin 23 => f.getD (2 * i + r) false

theorem deinterleave_getLsbD (f : Bits) (r : Nat) {i : Nat} (hi : i < 23) :
    (deinterleave f r).getLsbD i = f.getD (2 * i + r) false := by
  simp [deinterleave, hi]

theorem lenIlv_deinterleave {f : Bits} (hf : f.length = 46) : lenIlv (deinterleave f 0) (deinterleave f 1) = f := by
  apply List.ext_getElem?
  intro j
  rcases Nat.lt_or_ge j 46 with inside | past
  · have value : f[j]? = some (f.getD j false) := by simp [hf, inside]
    have half : j / 2 < 23 := by omega
    rw [value]
    rcases Nat.mod_two_eq_zero_or_one j with even | odd
    · have place : 2 * (j / 2) = j := by omega
      have bit := Encoding.lenIlv_getElem?_even (deinterleave f 0) (deinterleave f 1) half
      rwa [deinterleave_getLsbD f 0 half, Nat.add_zero, place] at bit
    · have place : 2 * (j / 2) + 1 = j := by omega
      have bit := Encoding.lenIlv_getElem?_odd (deinterleave f 0) (deinterleave f 1) half
      rwa [deinterleave_getLsbD f 1 half, place] at bit
  · rw [List.getElem?_eq_none (by rw [lenIlv_length]; exact past), List.getElem?_eq_none (by omega)]

theorem lenIlv_injective {a b a' b' : Codeword} (same : lenIlv a b = lenIlv a' b') : a = a' ∧ b = b' := by
  refine ⟨BitVec.eq_of_getLsbD_eq fun i hi => ?_, BitVec.eq_of_getLsbD_eq fun i hi => ?_⟩
  · have bit := Encoding.lenIlv_getElem?_even a b hi
    rw [same, Encoding.lenIlv_getElem?_even a' b' hi] at bit
    exact (Option.some.inj bit).symm
  · have bit := Encoding.lenIlv_getElem?_odd a b hi
    rw [same, Encoding.lenIlv_getElem?_odd a' b' hi] at bit
    exact (Option.some.inj bit).symm

theorem exec_lenIlv (a b : Codeword) (s : State) : exec (.lenIlv a b) s = .next (s.setRet (.bits (lenIlv a b))) := rfl

/-- Settles O5: the bits of each codeword can be read back from their positions. -/
theorem lenIlvIsBijectiveInterleaving : Obligations.LenIlvIsBijectiveInterleaving :=
  ⟨fun s a b => exec_lenIlv a b s,
    fun a b => ⟨lenIlv_length a b, fun _ hi => ⟨Encoding.lenIlv_getElem?_even a b hi, Encoding.lenIlv_getElem?_odd a b hi⟩⟩,
    fun f hf => ⟨_, _, lenIlv_deinterleave hf⟩, fun _ _ _ _ => lenIlv_injective, by decide +kernel⟩

/-! The decoder (R143). -/

/-- The decoder answers the least of the candidates with the greatest score. -/
theorem lenDec_leastMax (g : Cfg) {x : List Soft} (hx : x.length = 23) (par : Bool) :
    LeastMax (lenScoreSpec g x par) 0 1600 (lenDec g x par).1 (lenDec g x par).2 := by
  have score : lenScore g x par = lenScoreSpec g x par := funext fun v => lenScore_eq_spec g x par v hx
  have found := scanMax_leastMax (lenScore g x par) 0 mtu
  rw [Nat.zero_add, ← lenDec, score] at found
  exact found

theorem lenDec_le_mtu (g : Cfg) (x : List Soft) (par : Bool) : (lenDec g x par).1 ≤ mtu := by
  have found := (scanMax_leastMax (lenScore g x par) 0 mtu).2.1
  rwa [Nat.zero_add] at found

/-- Settles O6: the scan finds the least best candidate, and its score is the sum of R143. -/
theorem lenDecIsLeastBest : Obligations.LenDecIsLeastBest := by
  intro s x par
  refine ⟨fun hx => ⟨_, _, ?_, lenDec_leastMax s.cfg hx par⟩, fun hx => ?_⟩
  · show execLenDec x par s = _
    rw [execLenDec, if_pos hx]
  · show execLenDec x par s = _
    rw [execLenDec, if_neg hx]

/-! The complementary footer (R148). -/

theorem soft_not_neg (b : Bool) (x : Soft) : soft (!b) (-x) = soft b x := by cases b <;> simp

theorem corr_complement_neg {α : Type} (p : α → Bool) (l : List α) (s : List Soft) :
    corr (l.map fun x => !p x) (s.map fun x => -x) = corr (l.map p) s := by
  induction l generalizing s with
  | nil => simp
  | cons x xs ih =>
    cases s with
    | nil => simp
    | cons y ys =>
      simp only [List.map_cons, corr_cons, soft_not_neg, ih]

theorem codewordBits_complement (c : Codeword) :
    codewordBits (c ^^^ 0x7FFFFF) = (List.range 23).map fun i => !c.getLsbD i :=
  List.map_congr_left fun _ hi => Encoding.getLsbD_xor_ones c (List.mem_range.1 hi)

theorem lenScore_complement {g : Cfg} (linear : G1 (golayEnc g)) (ones : G3 (golayEnc g)) (s : List Soft) (v : Nat) :
    lenScore g (s.map fun x => -x) true v = lenScore g s false v := by
  have masked : golayEnc g (lengthWordOf v ^^^ parMask true) = golayEnc g (lengthWordOf v) ^^^ 0x7FFFFF :=
    Encoding.lenEnc_snd_eq_xor linear ones v
  have direct : lengthWordOf v ^^^ parMask false = lengthWordOf v := BitVec.xor_zero
  rw [lenScore, lenScore, masked, codewordBits_complement, direct, corr_complement_neg]
  rfl

/-- Settles O8: every candidate scores the same in both decodes, since its codeword and the soft values are both negated. -/
theorem complementaryFooterAgrees : Obligations.ComplementaryFooterAgrees := by
  intro g linear ones sa _
  have scores : lenScore g (sa.map fun x => -x) true = lenScore g sa false :=
    funext fun v => lenScore_complement linear ones sa v
  rw [lenDec, lenDec, scores]

end Sys2Proof.Proofs.LengthOps

/-! Synchronizer and frame codec as instructions (41_uw_sync.md, 42_frame_codec.md) and the wire patterns (30_encoding.md).
SER and DESER are inverse byte by byte (R171, R172), a frame is its fields one after the other (R177), and the decoder reads the
footer and the payload back from where the frame put them (R179, R180). -/

namespace Sys2Proof.Proofs.FrameOps

open Sys2Proof Sys2Proof.Machine

/-! The synchronizer (R160, R161). -/

/-- Settles O9: the domain test of the operation is the bound of R160. -/
theorem uwCorrReturnsSum : Obligations.UwCorrReturnsSum := by
  intro s sd o
  refine ⟨fun inside => ?_, fun outside => ?_⟩
  · show execUwCorr sd o s = _
    rw [execUwCorr, if_pos inside, UwSync.uwCorr_eq_spec s.cfg inside]
  · show execUwCorr sd o s = _
    rw [execUwCorr, if_neg (Nat.not_le.2 outside)]

theorem leastMax_congr {f f' : Nat → Int} {lo hi o : Nat} {x : Int} (same : ∀ p, lo ≤ p → p ≤ hi → f p = f' p)
    (h : LeastMax f lo hi o x) : LeastMax f' lo hi o x := by
  obtain ⟨lo_le, le_hi, value, max, least⟩ := h
  exact ⟨lo_le, le_hi, value.trans (same o lo_le le_hi), fun p hp hp' => same p hp hp' ▸ max p hp hp',
    fun p hp hp' => same p hp (by omega) ▸ least p hp hp'⟩

/-- The search answers the least of the offsets with the greatest score. -/
theorem uwSearch_leastMax (g : Cfg) {sd : List Soft} {lo hi : Nat} (order : lo ≤ hi) (inside : hi + 48 ≤ sd.length) :
    LeastMax (uwCorrSpec g sd) lo hi (uwSearch g sd lo hi).1 (uwSearch g sd lo hi).2 := by
  have found := scanMax_leastMax (uwCorr g sd) lo (hi - lo)
  rw [Nat.add_sub_cancel' order] at found
  exact leastMax_congr (fun p _ hp => UwSync.uwCorr_eq_spec g (by omega)) found

/-- Settles O10: the three cases are the domain tests of the operation, and inside it the scan finds the least best offset. -/
theorem uwSearchIsLeastBest : Obligations.UwSearchIsLeastBest := by
  intro s sd lo hi
  refine ⟨fun order inside => ⟨_, _, ?_, uwSearch_leastMax s.cfg order inside⟩, fun order outside => ?_, fun empty => ?_⟩
  · show execUwSearch sd lo hi s = _
    rw [execUwSearch, if_neg (Nat.not_lt.2 order), if_pos inside]
  · show execUwSearch sd lo hi s = _
    rw [execUwSearch, if_neg (Nat.not_lt.2 order), if_neg (Nat.not_le.2 outside)]
  · show execUwSearch sd lo hi s = _
    rw [execUwSearch, if_pos empty]

/-! Scrambling (R170). -/

theorem scr_scr (b : Byte) : scr (scr b) = b := by
  rw [scr, scr, BitVec.xor_assoc, BitVec.xor_self, BitVec.xor_zero]

theorem map_scr_scr (p : Packet) : (p.map scr).map scr = p := by
  rw [List.map_map, show scr ∘ scr = id from funext scr_scr, List.map_id]

theorem exec_scr (b : Byte) (s : State) : exec (.scr b) s = .next (s.setRet (.byte (b ^^^ 0x55))) := rfl

/-- Settles O12: the mask XORed twice is nothing; the corner cases are evaluated. -/
theorem scrXorsMask : Obligations.ScrXorsMask :=
  ⟨fun s b => ⟨exec_scr b s, rfl, scr_scr b⟩, by decide, by decide, by decide, by decide, by decide, by decide, by decide⟩

/-! Serialising (R171). -/

@[simp] theorem byteBits_length (b : Byte) : (byteBits b).length = 8 := by simp [byteBits]

theorem byteBits_getElem? (b : Byte) {j : Nat} (hj : j < 8) : (byteBits b)[j]? = some (b.getLsbD j) := by
  simp [byteBits, hj]

theorem ser_cons (b : Byte) (p : Packet) : ser (b :: p) = byteBits b ++ ser p := List.flatMap_cons

@[simp] theorem ser_length (p : Packet) : (ser p).length = 8 * p.length := by
  induction p with
  | nil => rfl
  | cons b p ih => rw [ser_cons, List.length_append, byteBits_length, ih, List.length_cons]; omega

theorem ser_getElem? (p : Packet) {k j : Nat} (hk : k < p.length) (hj : j < 8) :
    (ser p)[8 * k + j]? = some ((p.getD k 0).getLsbD j) := by
  induction p generalizing k with
  | nil => exact absurd hk (Nat.not_lt_zero k)
  | cons b p ih =>
    rw [ser_cons]
    cases k with
    | zero => rw [List.getElem?_append_left (by simp [hj]), Nat.mul_zero, Nat.zero_add, byteBits_getElem? b hj]; rfl
    | succ k =>
      rw [List.getElem?_append_right (by simp; omega), byteBits_length, show 8 * (k + 1) + j - 8 = 8 * k + j by omega,
        ih (Nat.lt_of_succ_lt_succ hk)]
      rfl

theorem exec_ser (p : Packet) (s : State) : exec (.ser p) s = .next (s.setRet (.bits (ser p))) := rfl

/-- Settles O13: the bits of byte `k` follow those of the `k` bytes before it. -/
theorem serLeastSignificantFirst : Obligations.SerLeastSignificantFirst :=
  ⟨fun s p => exec_ser p s, fun p => ⟨ser_length p, fun _ _ => ser_getElem? p⟩, rfl, by decide⟩

/-! Deserialising (R172). -/

/-- The byte eight bits stand for. -/
def byteOf (b : Bits) : Byte := BitVec.ofNat 8 (bitsNat b)

theorem deser_eight (b t : Bits) (hb : b.length = 8) : deser (b ++ t) = byteOf b :: deser t := by
  match b, hb with
  | [_, _, _, _, _, _, _, _], _ => rfl

theorem bitsNat_testBit (b : Bits) (j : Nat) : (bitsNat b).testBit j = b.getD j false := by
  induction b generalizing j with
  | nil => simp [bitsNat]
  | cons x xs ih =>
    have halves : bitsNat (x :: xs) = x.toNat + 2 * bitsNat xs := rfl
    cases j with
    | zero => cases x <;> simp [halves, Nat.testBit_zero]
    | succ j =>
      have small : x.toNat < 2 := Bool.toNat_lt x
      have half : bitsNat (x :: xs) / 2 = bitsNat xs := by omega
      rw [Nat.testBit_succ, half, ih]
      rfl

theorem byteOf_getLsbD (b : Bits) {j : Nat} (hj : j < 8) : (byteOf b).getLsbD j = b.getD j false := by
  rw [byteOf, BitVec.getLsbD_ofNat, bitsNat_testBit, decide_eq_true hj, Bool.true_and]

theorem byteOf_byteBits (b : Byte) : byteOf (byteBits b) = b :=
  BitVec.eq_of_getLsbD_eq fun j hj => by simp [byteOf_getLsbD _ hj, byteBits_getElem? b hj]

theorem byteBits_byteOf {b : Bits} (hb : b.length = 8) : byteBits (byteOf b) = b := by
  apply List.ext_getElem?
  intro j
  rcases Nat.lt_or_ge j 8 with hj | past
  · rw [byteBits_getElem? _ hj, byteOf_getLsbD b hj]
    simp [hb, hj]
  · rw [List.getElem?_eq_none (by simpa using past), List.getElem?_eq_none (by omega)]

theorem deser_ser (p : Packet) : deser (ser p) = p := by
  induction p with
  | nil => rfl
  | cons b p ih => rw [ser_cons, deser_eight _ _ (byteBits_length b), byteOf_byteBits, ih]

/-- A whole number of bytes splits into its first eight bits and the rest. -/
theorem bits_split {bits : Bits} {n : Nat} (hn : bits.length = 8 * (n + 1)) :
    (bits.take 8).length = 8 ∧ (bits.drop 8).length = 8 * n ∧ bits = bits.take 8 ++ bits.drop 8 := by
  refine ⟨?_, ?_, (List.take_append_drop 8 bits).symm⟩
  · rw [List.length_take]; omega
  · rw [List.length_drop]; omega

theorem ser_deser {bits : Bits} {n : Nat} (hn : bits.length = 8 * n) : ser (deser bits) = bits := by
  induction n generalizing bits with
  | zero => obtain rfl := List.length_eq_zero_iff.1 hn; rfl
  | succ n ih =>
    obtain ⟨eight, rest, split⟩ := bits_split hn
    rw [split, deser_eight _ _ eight, ser_cons, byteBits_byteOf eight, ih rest]

theorem deser_length {bits : Bits} {n : Nat} (hn : bits.length = 8 * n) : (deser bits).length = n := by
  have count := congrArg List.length (ser_deser hn)
  rw [ser_length, hn] at count
  omega

/-- Bit `j` of byte `k` is bit `8k + j` of the sequence. -/
theorem deser_getLsbD {bits : Bits} {n : Nat} (hn : bits.length = 8 * n) {k j : Nat} (hk : k < n) (hj : j < 8) :
    ((deser bits).getD k 0).getLsbD j = bits.getD (8 * k + j) false := by
  have bit := ser_getElem? (deser bits) (k := k) (by rwa [deser_length hn]) hj
  rw [ser_deser hn] at bit
  exact (congrArg (Option.getD · false) bit).symm.trans (List.getD_eq_getElem?_getD).symm

theorem range_eight_sum (f : Nat → Nat) :
    ((List.range 8).map f).sum = f 0 + f 1 + f 2 + f 3 + f 4 + f 5 + f 6 + f 7 := by
  simp [List.range_succ, Nat.add_assoc]

/-- The weighted sum of R172 is the byte whose bits they are. -/
theorem weightedSum_eq (f : Nat → Bool) : ((List.range 8).map fun j => (f j).toNat <<< j).sum =
    bitsNat [f 0, f 1, f 2, f 3, f 4, f 5, f 6, f 7] := by
  rw [range_eight_sum]
  simp only [bitsNat, Nat.shiftLeft_eq]
  omega



theorem deser_getElem? {bits : Bits} {n : Nat} (hn : bits.length = 8 * n) {k : Nat} (hk : k < n) :
    (deser bits)[k]? = some (BitVec.ofNat 8 ((List.range 8).map fun j => (bits.getD (8 * k + j) false).toNat <<< j).sum) := by
  rw [weightedSum_eq fun j => bits.getD (8 * k + j) false]
  have inside : k < (deser bits).length := by rwa [deser_length hn]
  rw [List.getElem?_eq_getElem inside]
  refine congrArg some (BitVec.eq_of_getLsbD_eq fun j hj => ?_)
  have bit := deser_getLsbD hn hk hj
  rw [List.getD_eq_getElem _ _ inside] at bit
  rw [bit]
  symm
  refine (byteOf_getLsbD _ hj).trans ?_
  interval_cases j <;> rfl

/-- Settles O14: eight bits and a byte are two forms of the same thing, and both directions go eight bits at a time. -/
theorem deserInvertsSer : Obligations.DeserInvertsSer := by
  have bytes {bits : Bits} (h : bits.length % 8 = 0) : bits.length = 8 * (bits.length / 8) := by omega
  refine ⟨fun s bits h => ?_, fun s bits h => ?_, fun bits h => ⟨deser_length (bytes h), fun k => deser_getElem? (bytes h)⟩,
    deser_ser, fun bits h => ser_deser (bytes h), rfl, by decide⟩
  · show execDeser bits s = _
    rw [execDeser, if_pos h]
  · show execDeser bits s = _
    rw [execDeser, if_neg h]

/-! Idle filler (R174). -/

theorem filler_getElem? {m j : Nat} (hj : j < m) : (filler m)[j]? = some (j % 2 == 1) := by
  simp [filler, fillerBits, hj]

theorem exec_filler (m : Nat) (s : State) : exec (.filler m) s = .next (s.setRet (.bits (filler m))) := rfl

/-- Settles O15: the first bit of a run and the last one of an odd run stand at even positions. -/
theorem fillerAlternates : Obligations.FillerAlternates := by
  refine ⟨fun s m => exec_filler m s, fun m => ⟨fillerBits_length m, fun _ => filler_getElem?⟩, fun m n odd some => ⟨?_, ?_⟩,
    rfl, by decide, by decide⟩
  · rw [List.getLast?_eq_getElem?, show (filler m).length = m from fillerBits_length m, filler_getElem? (by omega)]
    simp [show (m - 1) % 2 = 0 by omega]
  · rw [List.head?_eq_getElem?, filler_getElem? some]
    rfl

/-! The frame (R177). -/

@[simp] theorem uwBits_length (g : Cfg) : g.uwBits.length = 48 := by simp [Cfg.uwBits]

theorem uwBits_getElem? (g : Cfg) {i : Nat} (hi : i < 48) : g.uwBits[i]? = some (g.uw.getLsbD i) := by
  simp [Cfg.uwBits, hi]

@[simp] theorem payloadBits_length (p : Packet) : (payloadBits p).length = 8 * p.length := by simp [payloadBits]

theorem payloadBits_getElem? (p : Packet) {k j : Nat} (hk : k < p.length) (hj : j < 8) :
    (payloadBits p)[8 * k + j]? = some ((p.getD k 0 ^^^ 0x55).getLsbD j) := by
  rw [payloadBits, ser_getElem? _ (by simpa using hk) hj]
  simp [hk, scr]

@[simp] theorem footerOf_length (g : Cfg) (len : Nat) : (footerOf g len).length = 46 := LengthOps.lenIlv_length _ _

theorem footerOf_getElem?_even (g : Cfg) (len : Nat) {i : Nat} (hi : i < 23) :
    (footerOf g len)[2 * i]? = some ((golayEnc g (BitVec.ofNat 12 len)).getLsbD i) :=
  Encoding.lenIlv_getElem?_even _ _ hi

theorem footerOf_getElem?_odd (g : Cfg) (len : Nat) {i : Nat} (hi : i < 23) :
    (footerOf g len)[2 * i + 1]? = some ((golayEnc g (BitVec.ofNat 12 len ^^^ 0xFFF)).getLsbD i) :=
  Encoding.lenIlv_getElem?_odd _ _ hi

/-- The leading field of a frame: the unique word, or nothing. -/
def leadBits (g : Cfg) (lead : Bool) : Bits := if lead then g.uwBits else []

@[simp] theorem leadBits_length (g : Cfg) (lead : Bool) : (leadBits g lead).length = if lead then 48 else 0 := by
  cases lead <;> simp [leadBits]

theorem frmEnc_eq (g : Cfg) (p : Packet) (lead : Bool) :
    frmEnc g p lead = leadBits g lead ++ (payloadBits p ++ (footerOf g p.length ++ g.uwBits)) := by
  simp [frmEnc, leadBits]

theorem frmEnc_length (g : Cfg) (p : Packet) (lead : Bool) :
    (frmEnc g p lead).length = (if lead then 142 else 94) + 8 * p.length := by
  rw [frmEnc_eq]
  cases lead <;> simp <;> omega

/-- What stands at position `i` of the field that starts at `n`. -/
theorem getElem?_append_field {α : Type} (a b c : List α) {n i : Nat} (hn : a.length = n) (hi : i < b.length) :
    (a ++ (b ++ c))[n + i]? = b[i]? := by
  rw [List.getElem?_append_right (by omega), List.getElem?_append_left (by omega), hn, Nat.add_sub_cancel_left]

theorem frmEnc_payload (g : Cfg) (p : Packet) (lead : Bool) {i : Nat} (hi : i < 8 * p.length) :
    (frmEnc g p lead)[(if lead then 48 else 0) + i]? = (payloadBits p)[i]? := by
  rw [frmEnc_eq]
  exact getElem?_append_field _ _ _ (leadBits_length g lead) (by simpa using hi)

theorem frmEnc_footer (g : Cfg) (p : Packet) (lead : Bool) {i : Nat} (hi : i < 46) :
    (frmEnc g p lead)[(if lead then 48 else 0) + 8 * p.length + i]? = (footerOf g p.length)[i]? := by
  rw [frmEnc_eq, ← List.append_assoc]
  exact getElem?_append_field _ _ _ (by simp) (by simpa using hi)

theorem frmEnc_trailer (g : Cfg) (p : Packet) (lead : Bool) {i : Nat} (hi : i < 48) :
    (frmEnc g p lead)[(if lead then 48 else 0) + 8 * p.length + 46 + i]? = g.uwBits[i]? := by
  rw [frmEnc_eq, ← List.append_assoc, ← List.append_assoc, ← List.append_nil g.uwBits]
  exact getElem?_append_field _ _ _ (by simp [Nat.add_assoc]) (by simpa using hi)

/-- Settles O16: each field is read at its place in the frame. -/
theorem frmEncLaysOutFrame : Obligations.FrmEncLaysOutFrame := by
  intro s p lead
  refine ⟨fun inside => ⟨frmEnc s.cfg p lead, ?_, frmEnc_length s.cfg p lead, ?_, ?_, ?_, ?_⟩, fun outside => ?_⟩
  · show execFrmEnc p lead s = _
    rw [execFrmEnc, if_pos inside]
  · intro leading i hi
    rw [frmEnc_eq, leading, List.getElem?_append_left (by simpa using hi)]
    exact uwBits_getElem? s.cfg hi
  · intro k j hk hj
    rw [Nat.add_assoc, frmEnc_payload _ _ _ (by omega), payloadBits_getElem? p hk hj]
  · intro i hi
    refine ⟨?_, ?_⟩
    · rw [frmEnc_footer _ _ _ (by omega), footerOf_getElem?_even _ _ hi]
    · rw [Nat.add_assoc _ (2 * i) 1, frmEnc_footer _ _ _ (by omega), footerOf_getElem?_odd _ _ hi]
  · intro i hi
    rw [frmEnc_trailer _ _ _ hi, uwBits_getElem? _ hi]
  · show execFrmEnc p lead s = _
    rw [execFrmEnc, if_neg (Nat.not_le.2 outside)]

/-! The wire and word patterns (R100 to R109). -/

/-- Settles O19: each pattern is the field, or the frame, of the functions above. -/
theorem wirePatternsAssembleFields : Obligations.WirePatternsAssembleFields := by
  intro s b d len
  refine ⟨rfl, ?_, fun inside => ?_, rfl, ?_, rfl, rfl, fun inside => ?_, rfl, fun outside => ⟨?_, ?_⟩⟩
  · show Host.Outcome.next (s.setRet (.bits (ser [scr b]))) = _
    rw [ser_cons, show ser [] = [] from rfl, List.append_nil]
    rfl
  · show execWireFooter len s = _
    rw [execWireFooter, if_pos inside]
    rfl
  · show execWireFrameL1 b s = execFrmEnc [b] true s
    rw [execWireFrameL1, execFrmEnc, if_pos (by simp [mtu])]
  · show execWordLength len s = _
    rw [execWordLength, if_pos inside]
    rfl
  · show execWireFooter len s = _
    rw [execWireFooter, if_neg (Nat.not_le.2 outside)]
  · show execWordLength len s = _
    rw [execWordLength, if_neg (Nat.not_le.2 outside)]



end Sys2Proof.Proofs.FrameOps

/-! FRM.DEC (42_frame_codec.md R179): the two halves of the footer before an offset, the payload before the footer, and the round
trip of a noiseless frame (R180). -/

namespace Sys2Proof.Proofs.FrameDecode

open Sys2Proof Sys2Proof.Machine

/-! The two halves of a footer (R112). -/

theorem evens_getElem? {α : Type} (l : List α) (i : Nat) : (evens l)[i]? = l[2 * i]? := by
  induction l using evens.induct generalizing i with
  | case1 a b t ih => cases i with
    | zero => rfl
    | succ i => simpa [evens, Nat.mul_succ] using ih i
  | case2 a => cases i <;> simp [evens, Nat.mul_succ]
  | case3 => simp [evens]

theorem odds_getElem? {α : Type} (l : List α) (i : Nat) : (odds l)[i]? = l[2 * i + 1]? := by
  induction l using odds.induct generalizing i with
  | case1 a b t ih => cases i with
    | zero => rfl
    | succ i => simpa [odds, Nat.mul_succ] using ih i
  | case2 l short =>
    match l, short with
    | [], _ => simp [odds]
    | [_], _ => simp [odds]
    | _ :: _ :: _, short => exact absurd rfl (short _ _ _)

/-- 23 elements read at the positions `f` of a sequence that holds them all. -/
theorem eq_map_range_getD {sd l : List Soft} {f : Nat → Nat} (inside : ∀ i, i < 23 → f i < sd.length)
    (hl : ∀ i, i < 23 → l[i]? = sd[f i]?) (none : ∀ i, 23 ≤ i → l[i]? = none) :
    l = (List.range 23).map fun i => sd.getD (f i) 0 := by
  apply List.ext_getElem?
  intro i
  rcases Nat.lt_or_ge i 23 with lt | ge
  · simp [hl i lt, lt, inside i lt]
  · simp [none i ge, ge]

/-- The 46 soft values before an offset are the two halves of its footer. -/
theorem halves_of_memRead {sd foot : List Soft} {o : Nat} (h : memRead sd (o - 46) 46 = some foot) :
    evens foot = footA sd o ∧ odds foot = footB sd o := by
  have bound := (memRead_eq_some.1 h).1
  have past (j : Nat) (hj : 46 ≤ j) : foot[j]? = none := List.getElem?_eq_none (by rw [memRead_length h]; exact hj)
  refine ⟨eq_map_range_getD (fun i _ => by omega) (fun i hi => ?_) fun i hi => ?_,
    eq_map_range_getD (fun i _ => by omega) (fun i hi => ?_) fun i hi => ?_⟩
  · rw [evens_getElem?, memRead_getElem? h (by omega)]
  · rw [evens_getElem?, past _ (by omega)]
  · rw [odds_getElem?, memRead_getElem? h (by omega), Nat.add_assoc]
  · rw [odds_getElem?, past _ (by omega)]

@[simp] theorem footA_length (sd : List Soft) (o : Nat) : (footA sd o).length = 23 := by simp [footA]

@[simp] theorem footB_length (sd : List Soft) (o : Nat) : (footB sd o).length = 23 := by simp [footB]

theorem footerDecode_of_memRead {g : Cfg} {sd foot : List Soft} {o : Nat} (h : memRead sd (o - 46) 46 = some foot) :
    footerDecode g foot = (lenDec g (footA sd o) false, lenDec g (footB sd o) true) := by
  obtain ⟨a, b⟩ := halves_of_memRead h
  rw [footerDecode, a, b]

/-! Reading inside a space. -/

theorem memRead_inside {α : Type} {xs : List α} {pos n : Nat} (inside : pos + n ≤ xs.length) :
    memRead xs pos n = some ((xs.drop pos).take n) := memRead_eq_some.2 ⟨inside, rfl⟩

theorem readOr_inside {α : Type} (sp : Space) {xs : List α} {pos n : Nat} (inside : pos + n ≤ xs.length)
    (go : List α → Out) : readOr sp xs pos n go = go ((xs.drop pos).take n) := by
  rw [readOr, memRead_inside inside]

theorem readOr_outside {α : Type} (sp : Space) {xs : List α} {pos n : Nat} (outside : xs.length < pos + n)
    (go : List α → Out) : readOr sp xs pos n go = .fault (.outOfRange sp pos n xs.length) := by
  rw [readOr, memRead_eq_none.2 outside]

/-! The payload before the footer. -/

/-- What is unpacked from the payload positions of a candidate is its payload (R112). -/
theorem unpack_isPayload {bits raw : Bits} {o len : Nat} (h : memRead bits (payloadStart o len) (8 * len) = some raw) :
    IsPayload bits o len (unpack raw) := by
  have count := memRead_length h
  have bytes := FrameOps.deser_length count
  refine ⟨by rw [unpack, List.length_map, bytes], fun m j hm hj => ?_⟩
  have byte : (unpack raw).getD m 0 = (deser raw).getD m 0 ^^^ scrMask := by
    simp [unpack, bytes, hm, scr]
  have bit : raw.getD (8 * m + j) false = bits.getD (o - 46 - 8 * len + 8 * m + j) false := by
    rw [List.getD_eq_getElem?_getD, memRead_getElem? h (by omega), List.getD_eq_getElem?_getD, payloadStart,
      Nat.add_assoc _ (8 * m)]
  rw [byte, BitVec.getLsbD_xor, FrameOps.deser_getLsbD count hm hj, bit]

/-! The four answers of FRM.DEC inside the window. -/

section
variable {s : State} {bits : Bits} {sd : List Soft} {o la lb : Nat} {ca cb : Int}

/-- FRM.DEC at an offset whose footer is in the window, with what its two decodes gave. -/
theorem execFrmDec_decoded (low : 46 ≤ o) (inside : o ≤ sd.length) (a : lenDec s.cfg (footA sd o) false = (la, ca))
    (b : lenDec s.cfg (footB sd o) true = (lb, cb)) :
    execFrmDec bits sd o s =
      if la ≠ lb then .next (s.setRet (.frame (.rejected .lenMismatch la lb) la ca lb cb))
      else if la = 0 then .next (s.setRet (.frame .filler la ca lb cb))
      else if o < 46 + 8 * la then .fault (.outOfRange .operand o (8 * la) bits.length)
      else readOr .operand bits (payloadStart o la) (8 * la) fun raw =>
        .next (s.setRet (.frame (.accepted (unpack raw)) la ca lb cb)) := by
  have read := memRead_inside (xs := sd) (pos := o - 46) (n := 46) (by omega)
  have decode := footerDecode_of_memRead (g := s.cfg) read
  have legal : ¬ mtu < la := Nat.not_lt.2 (by simpa [a] using LengthOps.lenDec_le_mtu s.cfg (footA sd o) false)
  rw [execFrmDec, frmDecThen, if_neg (Nat.not_lt.2 low), readOr_inside _ (show o - 46 + 46 ≤ sd.length by omega)]
  simp only [decode, a, b, if_neg legal]

end

/-- The payload positions of a candidate whose footer ends in the window are in the window. -/
theorem payload_inside {bits : Bits} {o len : Nat} (fits : 46 + 8 * len ≤ o) (inside : o ≤ bits.length + 46) :
    payloadStart o len + 8 * len ≤ bits.length := by
  have start : payloadStart o len = o - 46 - 8 * len := rfl
  omega

/-- Settles O17: FRM.DEC computes the two decodes of R179 and goes one of its four ways; the read of the payload is inside the
window wherever its start is. -/
theorem frmDecClassifiesCandidate : Obligations.FrmDecClassifiesCandidate := by
  intro s bits sd o same
  rcases ea : lenDec s.cfg (footA sd o) false with ⟨la, ca⟩
  rcases eb : lenDec s.cfg (footB sd o) true with ⟨lb, cb⟩
  have bestA := LengthOps.lenDec_leastMax s.cfg (footA_length sd o) false
  have bestB := LengthOps.lenDec_leastMax s.cfg (footB_length sd o) true
  rw [ea] at bestA
  rw [eb] at bestB
  have answers (low : 46 ≤ o) (inside : o ≤ sd.length) := execFrmDec_decoded (bits := bits) low inside ea eb
  refine ⟨fun domain inside => ?_, fun low inside => ⟨la, ca, lb, cb, bestA, bestB, ?_, ?_, ?_, ?_⟩, fun low => ?_,
    fun low outside => ?_⟩
  · have fits : 46 + 8 * la ≤ o := by have := bestA.2.1; dsimp only at this; omega
    have answer := answers (by omega) inside
    rw [if_neg (Nat.not_lt.2 fits), readOr_inside _ (payload_inside fits (by omega))] at answer
    split at answer
    · exact ⟨_, answer⟩
    · split at answer <;> exact ⟨_, answer⟩
  · intro differ
    exact (answers low inside).trans (if_pos differ)
  · intro agree zero
    exact (answers low inside).trans ((if_neg (not_not.2 agree)).trans (if_pos zero))
  · intro agree some fits
    have read := memRead_inside (payload_inside (bits := bits) fits (by omega))
    refine ⟨_, unpack_isPayload read, (answers low inside).trans ?_⟩
    rw [if_neg (not_not.2 agree), if_neg some, if_neg (Nat.not_lt.2 fits), readOr, read]
  · intro agree some short
    exact (answers low inside).trans ((if_neg (not_not.2 agree)).trans ((if_neg some).trans (if_pos short)))
  · show execFrmDec bits sd o s = _
    rw [execFrmDec, frmDecThen, if_pos low]
  · show execFrmDec bits sd o s = _
    rw [execFrmDec, frmDecThen, if_neg (Nat.not_lt.2 low), readOr_outside _ (show sd.length < o - 46 + 46 by omega)]

/-! The round trip of a noiseless frame (R180). -/

theorem unpack_payloadBits (p : Packet) : unpack (payloadBits p) = p := by
  rw [unpack, payloadBits, FrameOps.deser_ser, FrameOps.map_scr_scr]

/-- A window that holds a sequence from `pos` on holds its element `i` at `pos + i`. -/
theorem getElem?_of_window {α : Type} {xs ys : List α} {pos n : Nat} (h : (xs.drop pos).take n = ys) {i : Nat}
    (hi : i < n) : xs[pos + i]? = ys[i]? := by
  rw [← h, List.getElem?_take_of_lt hi, List.getElem?_drop]

section
variable {g : Cfg} {p : Packet} {bits : Bits} {sd : List Soft} {o : Nat} {a : Int}

/-- The payload of a frame before the offset is read back whole. -/
theorem payload_of_window (h : (bits.drop (o - 46 - 8 * p.length)).take (94 + 8 * p.length) = frmEnc g p false) :
    (bits.drop (payloadStart o p.length)).take (8 * p.length) = payloadBits p := by
  have start : payloadStart o p.length = o - 46 - 8 * p.length := rfl
  have front : (frmEnc g p false).take (8 * p.length) = payloadBits p := by
    rw [FrameOps.frmEnc_eq, ← FrameOps.payloadBits_length p]
    exact List.take_left
  rw [start, ← front, ← h, List.take_take, Nat.min_eq_left (by omega)]

/-- Position `i` of the footer of a noiseless frame before the offset. -/
theorem footer_of_window (h : (sd.drop (o - 46 - 8 * p.length)).take (94 + 8 * p.length) = hardSoft a (frmEnc g p false))
    (ho : 46 + 8 * p.length ≤ o) {i : Nat} (hi : i < 46) :
    sd[o - 46 + i]? = (footerOf g p.length)[i]?.map fun b => if b then a else -a := by
  have bit := FrameOps.frmEnc_footer g p false hi
  have place : 0 + 8 * p.length + i = 8 * p.length + i := by omega
  have value := getElem?_of_window h (i := 8 * p.length + i) (by omega)
  rw [if_neg Bool.false_ne_true, place] at bit
  rw [hardSoft, List.getElem?_map, bit] at value
  rw [← value]
  congr 1
  omega

theorem footA_of_window (h : (sd.drop (o - 46 - 8 * p.length)).take (94 + 8 * p.length) = hardSoft a (frmEnc g p false))
    (ho : 46 + 8 * p.length ≤ o) : footA sd o = hardSoft a (codewordBits (lenEnc g p.length).1) := by
  rw [footA, hardSoft, codewordBits, List.map_map]
  refine List.map_congr_left fun i hi => ?_
  have lt23 := List.mem_range.1 hi
  rw [List.getD_eq_getElem?_getD, footer_of_window h ho (by omega), FrameOps.footerOf_getElem?_even _ _ lt23]
  rfl

theorem footB_of_window (h : (sd.drop (o - 46 - 8 * p.length)).take (94 + 8 * p.length) = hardSoft a (frmEnc g p false))
    (ho : 46 + 8 * p.length ≤ o) : footB sd o = hardSoft a (codewordBits (lenEnc g p.length).2) := by
  rw [footB, hardSoft, codewordBits, List.map_map]
  refine List.map_congr_left fun i hi => ?_
  have lt23 := List.mem_range.1 hi
  rw [List.getD_eq_getElem?_getD, Nat.add_assoc, footer_of_window h ho (by omega),
    FrameOps.footerOf_getElem?_odd _ _ lt23]
  rfl

end

/-- Settles O18: the halves of the footer are the noiseless codewords of the length, which decode to it (R145), and the payload
positions hold the serialised and scrambled packet. -/
theorem frameRoundTripNoiseless : Obligations.FrameRoundTripNoiseless := by
  intro s p bits sd o a distance hp ha ho inside same hbits hsd
  obtain ⟨direct, masked⟩ := LengthCodec.lengthRoundTripNoiseless s.cfg distance p.length a hp ha
  rw [← footA_of_window hsd ho] at direct
  rw [← footB_of_window hsd ho] at masked
  have answer := execFrmDec_decoded (bits := bits) (by omega) (by omega) direct masked
  have accepted := readOr_inside .operand (payload_inside (bits := bits) ho (by omega)) fun raw =>
    .next (s.setRet (.frame (.accepted (unpack raw)) p.length (23 * a) p.length (23 * a)))
  rw [payload_of_window hbits, unpack_payloadBits] at accepted
  refine answer.trans ?_
  rw [if_neg (not_not.2 rfl), if_neg (Nat.not_lt.2 ho), accepted]
  split <;> rfl

end Sys2Proof.Proofs.FrameDecode

/-! What an operation can do, said once. `RxEffect`, `SchEffect` and `SysEffect` list every next state of an enabled operation of a
worker, of the scheduler and of the system, with the conditions of its rule (R191 to R197, R214 to R223, R280 to R284). An effect
is a run of its operation, and a run is an effect or leaves the state as it is. -/

namespace Sys2Proof.Proofs.Effects

open Sys2Proof Sys2Proof.Machine

/-! Buffers, from the inside. -/

theorem writeOr_inside {α : Type} (sp : Space) {xs v ys : List α} {pos : Nat} (h : memWrite xs pos v = some ys)
    (go : List α → Out) : writeOr sp xs pos v go = go ys := by
  rw [writeOr, h]

theorem shiftOr_inside {α : Type} (sp : Space) {xs tail ys : List α} (h : shiftIn xs tail = some ys)
    (go : List α → Out) : shiftOr sp xs tail go = go ys := by
  rw [shiftOr, h]

theorem memWrite_inside {α : Type} {xs v : List α} {pos : Nat} (inside : pos + v.length ≤ xs.length) :
    memWrite xs pos v = some (xs.take pos ++ v ++ xs.drop (pos + v.length)) := memWrite_eq_some.2 ⟨inside, rfl⟩

theorem shiftIn_inside {α : Type} {xs tail : List α} (inside : tail.length ≤ xs.length) :
    shiftIn xs tail = some (xs.drop tail.length ++ tail) := shiftIn_eq_some.2 ⟨inside, rfl⟩

/-! Enabling. -/

theorem running_iff (s : State) : s.running = true ↔ s.fatal = false ∧ s.chkPending = false := by
  simp [State.running]

/-- Worker `k` stands in the state `st`, and no agent is stopped. -/
structure RxEnabled (s : State) (k : Nat) (r : RxChan) (st : RxSt) : Prop where
  chan    : s.rx[k]? = some r
  running : s.running = true
  state   : r.st = st

/-- The scheduler stands in the phase `ph`, and no agent is stopped. -/
structure SchEnabled (s : State) (ph : Phase) : Prop where
  running : s.running = true
  phase   : s.sch.ph = ph

theorem RxEnabled.body {s : State} {k : Nat} {r : RxChan} {st : RxSt} (en : RxEnabled s k r st) (body : RxChan → Out) :
    workerStep k st s body = body r := workerStep_enabled en.chan en.running en.state

theorem SchEnabled.body {s : State} {ph : Phase} (en : SchEnabled s ph) (body : Out) : schedStep ph s body = body :=
  schedStep_enabled en.running en.phase

/-- Every operation of a worker is a `workerStep`. -/
theorem worker_step {i : Instr} {k : Nat} {st : RxSt} (hi : workerStateOf i = some (k, st)) (s : State) :
    ∃ body, exec i s = workerStep k st s body := by
  cases i <;> cases hi <;> exact ⟨_, rfl⟩

/-- Every operation of the scheduler is a `schedStep`. -/
theorem sched_step {i : Instr} {ph : Phase} (hi : phaseOf i = some ph) (s : State) :
    ∃ body, exec i s = schedStep ph s body := by
  cases i <;> cases hi <;> exact ⟨_, rfl⟩

/-! The effects of a worker's operations. -/

/-- The worker's state once it has halted with the cause `c`. -/
def haltedRx (r : RxChan) (c : Cause) : RxChan := { r with st := .halt, haltCode := c }

/-- The next states of the operations of worker `k`, whose channel is `r`. -/
inductive RxEffect (k : Nat) (s : State) (r : RxChan) : Instr → State → Prop
  | fill (c : Chunk) (bits : Bits) (sd : List Soft) : s.rxOffered k = some c → c.eos = false →
      chunkOk s.cfg k c = true → memWrite r.bits base c.cbits = some bits → memWrite r.sd base c.csd = some sd →
      RxEffect k s r (.rxFill k) ((s.takeRxin k c).setRx k (filledRx r c.n bits sd))
  | search : searchLo + (47 + max r.n 1) ≤ r.sd.length →
      RxEffect k s r (.rxSearch k) (s.setRx k (searchedRx s.cfg r))
  | validate (foot : List Soft) : 46 ≤ r.cand → memRead r.sd (r.cand - 46) 46 = some foot →
      RxEffect k s r (.rxValidate k) (s.setRx k (validatedRx s.cfg r foot))
  | deliver (raw : Bits) : r.verdict = .accept → s.env.devwrReady = true → 46 + 8 * r.lenA ≤ r.cand →
      memRead r.bits (payloadStart r.cand r.lenA) (8 * r.lenA) = some raw →
      RxEffect k s r (.rxExtract k) (((s.emitDevwr (unpack raw)).setRx k (extractedRx r)).traceEv 0x33 (some k) .accepted
        [(r.lenA : Int), r.candScore, r.confA, r.confB])
  | reject : r.verdict = .reject →
      RxEffect k s r (.rxExtract k) ((s.setRx k (extractedRx r)).traceEv 0x33 (some k) .lenMismatch
        [(r.lenA : Int), (r.lenB : Int), r.candScore])
  | drop : r.verdict = .filler ∨ r.verdict = .none → RxEffect k s r (.rxExtract k) (s.setRx k (extractedRx r))
  | shift (bits : Bits) (sd : List Soft) : shiftIn r.bits (List.replicate r.n false) = some bits →
      shiftIn r.sd (List.replicate r.n 0) = some sd →
      RxEffect k s r (.rxShift k) (s.setRx k (shiftedRx r bits sd))
  | halt (c : Chunk) : s.rxOffered k = some c → c.eos = true →
      RxEffect k s r (.rxHalt k) (((s.takeRxin k c).setRx k (haltedRx r .rxEos)).traceEv 0x35 (some k) .rxEos [])

theorem haltRx_eq {s : State} {k : Nat} {r : RxChan} (hr : s.rx[k]? = some r) (c : Cause) :
    s.haltRx k c = s.setRx k (haltedRx r c) := by
  rw [State.haltRx, hr]; rfl

/-- An effect is what its operation answers where it is enabled. -/
theorem RxEffect.exec_eq {k : Nat} {s t : State} {r : RxChan} {i : Instr} {st : RxSt} (h : RxEffect k s r i t)
    (hi : workerStateOf i = some (k, st)) (en : RxEnabled s k r st) : exec i s = .next t := by
  cases h with
  | fill c bits sd offered more ok hbits hsd =>
    cases hi
    refine (en.body _).trans ?_
    simp only [offered, more, ok, Bool.not_true, Bool.false_eq_true, if_false, writeOr_inside _ hbits,
      writeOr_inside _ hsd]
  | search inside =>
    cases hi
    exact (en.body _).trans (FrameDecode.readOr_inside _ inside _)
  | validate foot low read =>
    cases hi
    refine (en.body _).trans ((if_neg (Nat.not_lt.2 low)).trans ?_)
    rw [readOr, read]
  | deliver raw verdict ready low read =>
    cases hi
    refine (en.body _).trans ?_
    simp only [verdict, ready, Bool.not_true, Bool.false_eq_true, if_false]
    rw [if_neg (Nat.not_lt.2 low), readOr, read]
    exact congrArg Host.Outcome.next (raiseCause_mild (.inl rfl) _ _ _ _)
  | reject verdict =>
    cases hi
    refine (en.body _).trans ?_
    simp only [verdict]
    rw [raiseCause_mild (.inr rfl)]
  | drop verdict =>
    cases hi
    refine (en.body _).trans ?_
    rcases verdict with verdict | verdict <;> simp only [verdict]
  | shift bits sd hbits hsd =>
    cases hi
    refine (en.body _).trans ?_
    rw [shiftOr_inside _ hbits, shiftOr_inside _ hsd]
  | halt c offered ends =>
    cases hi
    refine (en.body _).trans ?_
    simp only [offered, ends, if_true]
    rw [raiseCause_terminalRx rfl, haltRx_eq (s := s.takeRxin k c) en.chan]

/-- A worker's operation that answers has waited, or was enabled and has its effect. -/
theorem worker_inv {i : Instr} {k : Nat} {st : RxSt} {s t : State} (hi : workerStateOf i = some (k, st))
    (h : exec i s = .next t) : t = s ∨ ∃ r, RxEnabled s k r st ∧ RxEffect k s r i t := by
  obtain ⟨body, step⟩ := worker_step hi s
  obtain ⟨r, hr, ⟨-, rfl⟩ | ⟨hrun, hst, -⟩⟩ := workerStep_eq_next.1 (step.symm.trans h)
  · exact .inl rfl
  have en : RxEnabled s k r st := ⟨hr, hrun, hst⟩
  suffices t = s ∨ RxEffect k s r i t from this.imp_right fun e => ⟨r, en, e⟩
  cases i with
  | rxFill =>
    cases hi
    have h := (en.body _).symm.trans h
    split at h
    · cases h; exact .inl rfl
    next c offered =>
    split at h
    · cases h; exact .inl rfl
    next more =>
    split at h
    · cases h
    next ok =>
    obtain ⟨bits, hbits, h⟩ := writeOr_eq_next.1 h
    obtain ⟨sd, hsd, h⟩ := writeOr_eq_next.1 h
    cases h
    exact .inr (.fill c bits sd offered (by simpa using more) (by simpa using ok) hbits hsd)
  | rxSearch =>
    cases hi
    have h := (en.body _).symm.trans h
    obtain ⟨v, read, h⟩ := readOr_eq_next.1 h
    cases h
    exact .inr (.search (memRead_eq_some.1 read).1)
  | rxValidate =>
    cases hi
    have h := (en.body _).symm.trans h
    split at h
    · cases h
    next low =>
    obtain ⟨foot, read, h⟩ := readOr_eq_next.1 h
    cases h
    exact .inr (.validate foot (Nat.not_lt.1 low) read)
  | rxExtract =>
    cases hi
    have h := (en.body _).symm.trans h
    split at h
    next verdict =>
      split at h
      · cases h; exact .inl rfl
      next ready =>
      split at h
      · cases h
      next low =>
      obtain ⟨raw, read, h⟩ := readOr_eq_next.1 h
      rw [raiseCause_mild (.inl rfl)] at h
      cases h
      exact .inr (.deliver raw verdict (by simpa using ready) (Nat.not_lt.1 low) read)
    next verdict =>
      rw [raiseCause_mild (.inr rfl)] at h
      cases h
      exact .inr (.reject verdict)
    next verdict => cases h; exact .inr (.drop (.inl verdict))
    next verdict => cases h; exact .inr (.drop (.inr verdict))
  | rxShift =>
    cases hi
    have h := (en.body _).symm.trans h
    obtain ⟨bits, hbits, h⟩ := shiftOr_eq_next.1 h
    obtain ⟨sd, hsd, h⟩ := shiftOr_eq_next.1 h
    cases h
    exact .inr (.shift bits sd hbits hsd)
  | rxHalt =>
    cases hi
    have h := (en.body _).symm.trans h
    split at h
    · cases h; exact .inl rfl
    next c offered =>
    split at h
    next ends =>
      rw [raiseCause_terminalRx rfl, haltRx_eq (s := s.takeRxin k c) en.chan] at h
      cases h
      exact .inr (.halt c offered ends)
    · cases h; exact .inl rfl
  | _ => cases hi

/-! The effects of the scheduler's operations. -/

/-- The packet in the backlog slot, framed for the channel `u` (R176, R216). -/
def slotFrame (s : State) (u : TxChan) : Bits := frmEnc s.cfg (s.sch.pendData.take s.sch.pendLen) u.needUw

/-- The channel `u` with its queue `q` once the frame in the slot has been queued. -/
def queuedTx (s : State) (u : TxChan) (q : Bits) : TxChan := { u with q := q, real := u.real + (slotFrame s u).length }

/-- The channel at `sch.ci` is `u`, and this iteration drains it (R218). -/
structure DrainDue (s : State) (u : TxChan) : Prop where
  chan  : s.tx[s.sch.ci]? = some u
  ready : s.sch.evWr.getD s.sch.ci false = true
  alive : u.alive = true
  whole : s.cfg.quantum s.sch.ci ≤ u.q.length

/-- The quantum at the front of the queue of `u`, the channel at `sch.ci`. -/
def frontQuantum (s : State) (u : TxChan) : Bits := u.q.take (s.cfg.quantum s.sch.ci)

/-- The next states of the scheduler's operations. -/
inductive SchEffect (s : State) : Instr → State → Prop
  | wait : s.eventPresent = true → SchEffect s .txWait (s.setSch (latchedSch s))
  | noEvent : s.sch.evDev = false → SchEffect s .txDevrd (s.setSch { s.sch with ph := .assign })
  | abort (i : Instr) : i = .txDevrd ∨ i = .txAbort → s.sch.evDev = true → s.sch.pendValid = true →
      SchEffect s i ((s.setFatal .assertBacklog).traceEv 0x45 none .assertBacklog [])
  | take (p : Packet) (rest : List Packet) (data : List Byte) : s.sch.evDev = true → s.sch.pendValid = false →
      s.env.devPkts = p :: rest → p.length ≤ mtu → memWrite s.sch.pendData 0 p = some data →
      SchEffect s .txDevrd ((s.takeDevrd p).setSch (slottedSch s.sch p data))
  | idle : s.sch.pendValid = false → SchEffect s .txAssign (s.setSch (assignedSch s false))
  | busy : s.sch.pendValid = true → s.tx.findIdx? TxChan.isFree = none →
      SchEffect s .txAssign ((s.setSch (assignedSch s true)).traceEv 0x42 none .busy [(s.sch.pendLen : Int)])
  | queue (c : Nat) (u : TxChan) (q : Bits) : s.sch.pendValid = true → s.tx.findIdx? TxChan.isFree = some c →
      s.tx[c]? = some u → s.sch.pendLen ≤ s.sch.pendData.length → memWrite u.q u.real (slotFrame s u) = some q →
      SchEffect s .txAssign (((s.setTx c (queuedTx s u q)).setSch (assignedSch s false)).traceEv 0x42 (some c) .queued
        [(s.sch.pendLen : Int), (u.real : Int), ((slotFrame s u).length : Int)])
  | skip (u : TxChan) : s.tx[s.sch.ci]? = some u → s.sch.evWr.getD s.sch.ci false = false ∨ u.alive = false →
      SchEffect s .txDrain (s.setSch (advancedSch s))
  | drain (u : TxChan) (q : Bits) : DrainDue s u → s.answer s.sch.ci = .ok →
      shiftIn u.q (filler (s.cfg.quantum s.sch.ci)) = some q →
      SchEffect s .txDrain (((s.emitTxout s.sch.ci (frontQuantum s u) .ok).setTx s.sch.ci
        (drainedTx u (s.cfg.quantum s.sch.ci) q)).setSch (advancedSch s))
  | fail (i : Instr) (u : TxChan) : i = .txDrain ∨ i = .txFail → DrainDue s u → s.answer s.sch.ci = .err →
      SchEffect s i ((((s.emitTxout s.sch.ci (frontQuantum s u) .err).setTx s.sch.ci { u with alive := false }).traceEv
        0x44 (some s.sch.ci) .txSink [(u.real : Int)]).setSch (advancedSch s))

theorem killTx_eq {s : State} {c : Nat} {u : TxChan} (hu : s.tx[c]? = some u) :
    s.killTx c = s.setTx c { u with alive := false } := by
  rw [State.killTx, hu]

theorem failEffect_eq {s : State} {u : TxChan} (hu : s.tx[s.sch.ci]? = some u) (b : Bits) :
    failEffect s.sch.ci u b s = (((s.emitTxout s.sch.ci b .err).setTx s.sch.ci { u with alive := false }).traceEv
      0x44 (some s.sch.ci) .txSink [(u.real : Int)]).setSch (advancedSch s) := by
  rw [failEffect, raiseCause_terminalTx rfl, killTx_eq (s := s.emitTxout s.sch.ci b .err) hu]

theorem abortEffect_eq (s : State) :
    abortEffect s = (s.setFatal .assertBacklog).traceEv 0x45 none .assertBacklog [] := by
  rw [abortEffect, raiseCause_fatal rfl]

theorem DrainDue.target {s : State} {u : TxChan} (due : DrainDue s u) (skip : Out) (go : TxChan → Out) :
    drainTarget s skip go = go u := by
  simp only [drainTarget, due.chan, due.ready, due.alive, Bool.and_self, if_true]

theorem DrainDue.read {s : State} {u : TxChan} (due : DrainDue s u) (go : Bits → Out) :
    readOr .txq u.q 0 (s.cfg.quantum s.sch.ci) go = go (frontQuantum s u) :=
  FrameDecode.readOr_inside _ (by have := due.whole; omega) go

theorem drainTarget_skip {s : State} {u : TxChan} (hu : s.tx[s.sch.ci]? = some u)
    (off : s.sch.evWr.getD s.sch.ci false = false ∨ u.alive = false) (skip : Out) (go : TxChan → Out) :
    drainTarget s skip go = skip := by
  have no : (s.sch.evWr.getD s.sch.ci false && u.alive) = false := by
    rcases off with h | h
    · rw [h, Bool.false_and]
    · rw [h, Bool.and_false]
  simp only [drainTarget, hu, no, Bool.false_eq_true, if_false]

/-- An effect is what its operation answers where it is enabled. -/
theorem SchEffect.exec_eq {s t : State} {i : Instr} {ph : Phase} (h : SchEffect s i t) (hi : phaseOf i = some ph)
    (en : SchEnabled s ph) : exec i s = .next t := by
  cases h with
  | wait event => cases hi; exact (en.body _).trans (if_pos event)
  | noEvent ev => cases hi; exact (en.body _).trans (if_pos (by simp [ev]))
  | abort _ op ev full =>
    rcases op with rfl | rfl <;> cases hi <;> refine (en.body _).trans ?_ <;> rw [← abortEffect_eq] <;> simp [ev, full]
  | take p rest data ev empty offered legal write =>
    cases hi
    refine (en.body _).trans ?_
    simp only [ev, empty, offered, Bool.not_true, Bool.false_eq_true, if_false, if_neg (Nat.not_lt.2 legal),
      writeOr_inside _ write]
  | idle empty => cases hi; exact (en.body _).trans (if_pos (by simp [empty]))
  | busy full noFree =>
    cases hi
    refine (en.body _).trans ?_
    simp only [full, noFree, Bool.not_true, Bool.false_eq_true, if_false]
    rw [raiseCause_mild (.inl rfl)]
  | queue c u q full least hu slot write =>
    cases hi
    refine (en.body _).trans ?_
    simp only [full, least, hu, Bool.not_true, Bool.false_eq_true, if_false]
    rw [FrameDecode.readOr_inside _ (by omega), List.drop_zero, ← slotFrame, writeOr_inside _ write,
      raiseCause_mild (.inl rfl)]
    rfl
  | skip u hu off => cases hi; exact (en.body _).trans (drainTarget_skip hu off _ _)
  | drain u q due answer shifted =>
    cases hi
    refine (en.body _).trans ((due.target _ _).trans ((due.read _).trans ?_))
    simp only [answer, shiftOr_inside _ shifted]
  | fail _ u op due answer =>
    rcases op with rfl | rfl
    · cases hi
      refine (en.body _).trans ((due.target _ _).trans ((due.read _).trans ?_))
      simp only [answer, failEffect_eq due.chan]
    · cases hi
      refine (en.body _).trans ((due.target _ _).trans ((due.read _).trans ?_))
      simp only [answer, failEffect_eq due.chan]

/-- Where TX.DRAIN or TX.FAIL answers, the channel at `sch.ci` is skipped, or due and its front quantum read. -/
theorem drainTarget_inv {s t : State} {skip : Out} {go : TxChan → Bits → Out}
    (h : drainTarget s skip (fun u => readOr .txq u.q 0 (s.cfg.quantum s.sch.ci) (go u)) = .next t) :
    (∃ u, s.tx[s.sch.ci]? = some u ∧ (s.sch.evWr.getD s.sch.ci false = false ∨ u.alive = false) ∧ skip = .next t) ∨
      ∃ u, DrainDue s u ∧ go u (frontQuantum s u) = .next t := by
  obtain ⟨-, fault⟩ | ⟨u, hu, ⟨ready, alive, target⟩ | ⟨off, target⟩⟩ := drainTarget_cases s skip
    fun u => readOr .txq u.q 0 (s.cfg.quantum s.sch.ci) (go u)
  · cases fault.symm.trans h
  · obtain ⟨v, read, h⟩ := readOr_eq_next.1 (target.symm.trans h)
    obtain ⟨inside, rfl⟩ := memRead_eq_some.1 read
    exact .inr ⟨u, ⟨hu, ready, alive, by omega⟩, h⟩
  · exact .inl ⟨u, hu, off, target.symm.trans h⟩

/-- An operation of the scheduler that answers has waited, or was enabled and has its effect. -/
theorem sched_inv {i : Instr} {ph : Phase} {s t : State} (hi : phaseOf i = some ph) (h : exec i s = .next t) :
    t = s ∨ (SchEnabled s ph ∧ SchEffect s i t) := by
  obtain ⟨body, step⟩ := sched_step hi s
  obtain ⟨-, rfl⟩ | ⟨hrun, hph, -⟩ := schedStep_eq_next.1 (step.symm.trans h)
  · exact .inl rfl
  have en : SchEnabled s ph := ⟨hrun, hph⟩
  suffices t = s ∨ SchEffect s i t from this.imp_right fun e => ⟨en, e⟩
  cases i with
  | txWait =>
    cases hi
    have h := (en.body _).symm.trans h
    split at h
    · next event => cases h; exact .inr (.wait event)
    · cases h; exact .inl rfl
  | txDevrd =>
    cases hi
    have h := (en.body _).symm.trans h
    split at h
    · next ev => cases h; exact .inr (.noEvent (by simpa using ev))
    next ev =>
    have ev : s.sch.evDev = true := by simpa using ev
    split at h
    · next full => rw [abortEffect_eq] at h; cases h; exact .inr (.abort _ (.inl rfl) ev full)
    next empty =>
    split at h
    · cases h; exact .inl rfl
    next p rest offered =>
    split at h
    · cases h
    next legal =>
    obtain ⟨data, write, h⟩ := writeOr_eq_next.1 h
    cases h
    exact .inr (.take p rest data ev (by simpa using empty) offered (Nat.not_lt.1 legal) write)
  | txAssign =>
    cases hi
    have h := (en.body _).symm.trans h
    split at h
    · next empty => cases h; exact .inr (.idle (by simpa using empty))
    next full =>
    have full : s.sch.pendValid = true := by simpa using full
    split at h
    · next noFree =>
      rw [raiseCause_mild (.inl rfl)] at h
      cases h
      exact .inr (.busy full noFree)
    next c least =>
    split at h
    · cases h
    next u hu =>
    obtain ⟨pkt, read, h⟩ := readOr_eq_next.1 h
    obtain ⟨inside, rfl⟩ := memRead_eq_some.1 read
    obtain ⟨q, write, h⟩ := writeOr_eq_next.1 h
    rw [raiseCause_mild (.inl rfl)] at h
    cases h
    exact .inr (.queue c u q full least hu (by omega) write)
  | txDrain =>
    cases hi
    have h := (en.body _).symm.trans h
    obtain ⟨u, hu, off, h⟩ | ⟨u, due, h⟩ := drainTarget_inv h
    · cases h; exact .inr (.skip u hu off)
    split at h
    · cases h; exact .inl rfl
    · next answer => rw [failEffect_eq due.chan] at h; cases h; exact .inr (.fail _ u (.inl rfl) due answer)
    · next answer =>
      obtain ⟨q, shifted, h⟩ := shiftOr_eq_next.1 h
      cases h
      exact .inr (.drain u q due answer shifted)
  | txFail =>
    cases hi
    have h := (en.body _).symm.trans h
    obtain ⟨u, hu, off, h⟩ | ⟨u, due, h⟩ := drainTarget_inv h
    · cases h; exact .inl rfl
    split at h
    · next answer => rw [failEffect_eq due.chan] at h; cases h; exact .inr (.fail _ u (.inr rfl) due answer)
    · cases h; exact .inl rfl
    · cases h; exact .inl rfl
  | txAbort =>
    cases hi
    have h := (en.body _).symm.trans h
    split at h
    · next both =>
      rw [Bool.and_eq_true] at both
      rw [abortEffect_eq] at h
      cases h
      exact .inr (.abort _ (.inr rfl) both.1 both.2)
    · cases h; exact .inl rfl
  | _ => cases hi

/-! The effects of the system's operations, and of the rest. -/

/-- The state after SYS.RESET (R280). -/
def resetState (s : State) : State :=
  { resetBlock s.env.cfgIn (freePend s.freeCtr) s with chkPending := true, freeCtr := s.freeCtr + mtu }

/-- The next states of SYS.RESET and SYS.CFGCHK. -/
inductive SysEffect (s : State) : Instr → State → Prop
  | reset : s.env.rst = true → SysEffect s .sysReset (resetState s)
  | cfgFail (n : Int) : s.chkPending = true → s.env.rst = false → cfgFailure s = some n →
      SysEffect s .sysCfgchk (({ s with chkPending := false }.setFatal .cfg).traceEv 0x51 none .cfg [n])
  | cfgPass : s.chkPending = true → s.env.rst = false → cfgFailure s = none →
      SysEffect s .sysCfgchk (openSources { s with chkPending := false })

theorem sysReset_asserted {s : State} (h : s.env.rst = true) : exec .sysReset s = .next (resetState s) := if_pos h

theorem sysReset_released {s : State} (h : s.env.rst = false) : exec .sysReset s = .next s := if_neg (by simp [h])

/-- The check where it is due is its two branches. -/
theorem sysCfgchk_due {s : State} (due : s.chkPending = true) (rst : s.env.rst = false) :
    exec .sysCfgchk s = match cfgFailure s with
      | some n => .next (({ s with chkPending := false }.setFatal .cfg).traceEv 0x51 none .cfg [n])
      | none => .next (openSources { s with chkPending := false }) := by
  show execSysCfgchk s = _
  rw [execSysCfgchk, if_pos (by simp [due, rst])]
  cases cfgFailure s with
  | some n => exact congrArg Host.Outcome.next (raiseCause_fatal rfl _ _ _ _)
  | none => rfl

theorem sysCfgchk_not_due {s : State} (h : s.chkPending = false ∨ s.env.rst = true) : exec .sysCfgchk s = .next s :=
  if_neg (by rcases h with h | h <;> simp [h])

theorem sysReset_inv {s t : State} (h : exec .sysReset s = .next t) : t = s ∨ SysEffect s .sysReset t := by
  cases rst : s.env.rst with
  | true => cases (sysReset_asserted rst).symm.trans h; exact .inr (.reset rst)
  | false => cases (sysReset_released rst).symm.trans h; exact .inl rfl

theorem sysCfgchk_inv {s t : State} (h : exec .sysCfgchk s = .next t) : t = s ∨ SysEffect s .sysCfgchk t := by
  by_cases off : s.chkPending = false ∨ s.env.rst = true
  · cases (sysCfgchk_not_due off).symm.trans h; exact .inl rfl
  have due : s.chkPending = true := by simpa using fun e => off (.inl e)
  have rst : s.env.rst = false := by simpa using fun e => off (.inr e)
  rw [sysCfgchk_due due rst] at h
  cases fails : cfgFailure s with
  | some n => rw [fails] at h; cases h; exact .inr (.cfgFail n due rst fails)
  | none => rw [fails] at h; cases h; exact .inr (.cfgPass due rst fails)

/-- FRM.DEC only latches its result. -/
theorem frmDec_inv {bits : Bits} {sd : List Soft} {o : Nat} {s t : State} (h : exec (.frmDec bits sd o) s = .next t) :
    ∃ v, t = s.setRet v := by
  have h : execFrmDec bits sd o s = .next t := h
  rw [execFrmDec, frmDecThen] at h
  split at h
  · cases h
  obtain ⟨foot, -, h⟩ := readOr_eq_next.1 h
  dsimp only at h
  split at h
  · cases h; exact ⟨_, rfl⟩
  split at h
  · cases h; exact ⟨_, rfl⟩
  split at h
  · cases h; exact ⟨_, rfl⟩
  split at h
  · cases h
  obtain ⟨raw, -, h⟩ := readOr_eq_next.1 h
  cases h
  exact ⟨_, rfl⟩

/-- Where a guarded latch answers, it has latched. -/
theorem latch_of_ite {c : Prop} [Decidable c] {s t : State} {v : Ret} {o : Out} (stops : o ≠ .next t)
    (h : (if c then .next (s.setRet v) else o) = .next t) : ∃ v, t = s.setRet v := by
  split at h
  · cases h; exact ⟨_, rfl⟩
  · exact absurd h stops

/-- An operation of no agent only latches what it returns. -/
theorem pure_inv {i : Instr} {s t : State} (worker : workerStateOf i = none) (sched : phaseOf i = none)
    (reset : i ≠ .sysReset) (check : i ≠ .sysCfgchk) (h : exec i s = .next t) : ∃ v, t = s.setRet v := by
  cases i with
  | rxFill | rxSearch | rxValidate | rxExtract | rxShift | rxHalt => cases worker
  | txWait | txDevrd | txAssign | txDrain | txFail | txAbort => cases sched
  | sysReset => exact absurd rfl reset
  | sysCfgchk => exact absurd rfl check
  | lenVote | uwHard => cases h
  | frmDec => exact frmDec_inv h
  | lenEnc | lenDec | deser | frmEnc | wireFooter | wordLength => exact latch_of_ite (by rintro ⟨⟩) h
  | uwCorr => exact latch_of_ite (by rintro ⟨⟩) h
  | uwSearch sd lo hi =>
    by_cases empty : hi < lo
    · cases (if_pos empty).symm.trans h
    · exact latch_of_ite (by rintro ⟨⟩) ((if_neg empty).symm.trans h)
  | golayEnc | lenIlv | scr | ser | filler | wireUw | wirePayloadByte | wireFiller | wireFrameL1 | wireFrameNoleadL1
  | wordCodeword => cases h; exact ⟨_, rfl⟩

/-- What any operation can do. -/
inductive Effect (i : Instr) (s : State) : State → Prop
  | none : Effect i s s
  | latch (v : Ret) : Effect i s (s.setRet v)
  | worker (k : Nat) (st : RxSt) (r : RxChan) (t : State) : workerStateOf i = some (k, st) → RxEnabled s k r st →
      RxEffect k s r i t → Effect i s t
  | sched (ph : Phase) (t : State) : phaseOf i = some ph → SchEnabled s ph → SchEffect s i t → Effect i s t
  | system (t : State) : SysEffect s i t → Effect i s t

theorem exec_inv {i : Instr} {s t : State} (h : exec i s = .next t) : Effect i s t := by
  rcases hw : workerStateOf i with _ | ⟨k, st⟩
  · rcases hp : phaseOf i with _ | ph
    · by_cases reset : i = .sysReset
      · subst reset
        obtain rfl | e := sysReset_inv h
        · exact .none
        · exact .system t e
      by_cases check : i = .sysCfgchk
      · subst check
        obtain rfl | e := sysCfgchk_inv h
        · exact .none
        · exact .system t e
      obtain ⟨v, rfl⟩ := pure_inv hw hp reset check h
      exact .latch v
    · obtain rfl | ⟨en, e⟩ := sched_inv hp h
      · exact .none
      · exact .sched ph t hp en e
  · obtain rfl | ⟨r, en, e⟩ := worker_inv hw h
    · exact .none
    · exact .worker k st r t hw en e

end Sys2Proof.Proofs.Effects

/-! Receive worker (43_rx_worker.md): each operation's effect read off `RxEffect`, what the worker leaves alone (R200), and the
window across one iteration (R198). -/

namespace Sys2Proof.Proofs.RxWorker

open Sys2Proof Sys2Proof.Machine Sys2Proof.Proofs.Effects

/-! What an effect leaves alone (R200). -/

/-- Replacing channel `k`, and nothing else of the block, is `OnlyRx`. -/
theorem onlyRx_of_set {k : Nat} {s t : State} {r : RxChan} (rx : t.rx = s.rx.set k r)
    (rest : t.tx = s.tx ∧ t.sch = s.sch ∧ t.fatal = s.fatal ∧ t.fatalCode = s.fatalCode ∧ t.cfg = s.cfg ∧
      t.chkPending = s.chkPending ∧ t.ret = s.ret ∧ t.script = s.script ∧ t.turn = s.turn ∧ t.freeCtr = s.freeCtr) :
    OnlyRx k s t :=
  ⟨by rw [rx, List.length_set], fun j hj => by rw [rx, List.getElem?_set_ne hj.symm], rest⟩

theorem onlyRx_refl (k : Nat) (s : State) : OnlyRx k s s :=
  ⟨rfl, fun _ _ => rfl, rfl, rfl, rfl, rfl, rfl, rfl, rfl, rfl, rfl, rfl⟩

/-- The environment, but for the chunk port of `k` and the readiness of the device write port. -/
def OnlyPorts (k : Nat) (s t : State) : Prop :=
  (∀ j, j ≠ k → t.env.rxin.getD j [] = s.env.rxin.getD j []) ∧
    t.env = { s.env with rxin := t.env.rxin, devwrReady := t.env.devwrReady }

theorem getD_set_ne {α : Type} (xs : List α) {k j : Nat} (hj : j ≠ k) (v d : α) : (xs.set k v).getD j d = xs.getD j d := by
  rw [List.getD_eq_getElem?_getD, List.getElem?_set_ne hj.symm, List.getD_eq_getElem?_getD]

theorem onlyPorts_of_take (k : Nat) (s : State) (c : Chunk) : OnlyPorts k s (s.takeRxin k c) :=
  ⟨fun _ hj => getD_set_ne _ hj _ _, rfl⟩

section
variable {k : Nat} {s t : State} {r : RxChan} {i : Instr}

theorem rxEffect_onlyRx (h : RxEffect k s r i t) : OnlyRx k s t := by
  cases h <;> exact onlyRx_of_set rfl ⟨rfl, rfl, rfl, rfl, rfl, rfl, rfl, rfl, rfl, rfl⟩

theorem rxEffect_onlyPorts (h : RxEffect k s r i t) : OnlyPorts k s t := by
  cases h with
  | fill c | halt c => exact onlyPorts_of_take k s c
  | search | validate | deliver | reject | drop | shift => exact ⟨fun _ _ => rfl, rfl⟩

theorem rxEffect_log (h : RxEffect k s r i t) : ∃ new, t.log = s.log ++ new := by
  cases h with
  | fill c => exact ⟨[_], rfl⟩
  | search | validate | drop | shift => exact ⟨[], (List.append_nil _).symm⟩
  | deliver | halt => exact ⟨[_, _], List.append_assoc ..⟩
  | reject => exact ⟨[_], rfl⟩

end

/-- Settles O30: whatever a worker's operation does is one of its effects, or a wait. -/
theorem workersAreIndependent : Obligations.WorkersAreIndependent := by
  intro i k st s t hi h
  obtain rfl | ⟨r, -, effect⟩ := worker_inv hi h
  · exact ⟨onlyRx_refl k t, fun _ _ => rfl, rfl, [], (List.append_nil _).symm⟩
  · obtain ⟨others, rest⟩ := rxEffect_onlyPorts effect
    exact ⟨rxEffect_onlyRx effect, others, rest, rxEffect_log effect⟩

/-! Enabled operations. -/

theorem rxEnabled_of {s : State} {k : Nat} {r : RxChan} {st : RxSt} (hr : s.rx[k]? = some r) (fatal : s.fatal = false)
    (check : s.chkPending = false) (hst : r.st = st) : RxEnabled s k r st :=
  ⟨hr, (running_iff s).2 ⟨fatal, check⟩, hst⟩

/-- The new state of the channel an operation has replaced. -/
theorem getElem?_set_chan {s : State} {k : Nat} {r : RxChan} (hr : s.rx[k]? = some r) (r' : RxChan) :
    (s.rx.set k r')[k]? = some r' :=
  List.getElem?_set_self (List.getElem?_eq_some_iff.1 hr).1

/-! RX.FILL (R191). -/

theorem chunkOk_iff (g : Cfg) (k : Nat) (c : Chunk) : chunkOk g k c = true ↔
    1 ≤ c.n ∧ c.n ≤ g.chunkMax k ∧ c.cbits.length = c.n ∧ c.csd.length = c.n ∧ ∀ x ∈ c.csd, g.softOk x = true := by
  simp [chunkOk, and_assoc]

/-- After `take` the port offers the next transfer. -/
theorem rxOffered_takeRxin (s : State) (k : Nat) (c : Chunk) :
    (s.takeRxin k c).rxOffered k = (s.env.rxin.getD k []).tail.head? := by
  rw [State.rxOffered, State.takeRxin_env]
  rcases Nat.lt_or_ge k s.env.rxin.length with inside | outside
  · simp [inside]
  · simp [outside]

/-- A chunk written at BASE stands there, and every other position is as before. -/
theorem memWrite_base {α : Type} {xs v ys : List α} {n : Nat} (hv : v.length = n) (h : memWrite xs 12942 v = some ys) :
    (∀ i, i < n → ys[12942 + i]? = v[i]?) ∧ ∀ i, i < 12942 ∨ 12942 + n ≤ i → ys[i]? = xs[i]? := by
  refine ⟨fun i hi => ?_, fun i hi => ?_⟩
  · rw [memWrite_getElem? h, if_pos (by omega), Nat.add_sub_cancel_left]
  · rw [memWrite_getElem? h, if_neg (by omega)]

/-- Settles O21: a legal chunk fits behind BASE, so that RX.FILL has its effect. -/
theorem rxFillTakesChunk : Obligations.RxFillTakesChunk := by
  intro s k r c hr fatal check hst offered more pos fits hbits hsd soft lenBits lenSd
  have en := rxEnabled_of hr fatal check hst
  have room : s.cfg.wRx k = 12942 + s.cfg.chunkMax k := rfl
  have writeBits := memWrite_inside (xs := r.bits) (v := c.cbits) (pos := 12942) (by omega)
  have writeSd := memWrite_inside (xs := r.sd) (v := c.csd) (pos := 12942) (by omega)
  have effect := RxEffect.fill c _ _ offered more ((chunkOk_iff _ _ _).2 ⟨pos, fits, hbits, hsd, soft⟩) writeBits writeSd
  obtain ⟨newBits, oldBits⟩ := memWrite_base hbits writeBits
  obtain ⟨newSd, oldSd⟩ := memWrite_base hsd writeSd
  exact ⟨_, _, _, effect.exec_eq rfl en, getElem?_set_chan hr _, memWrite_length writeBits, memWrite_length writeSd,
    fun i hi => ⟨newBits i hi, newSd i hi⟩, fun i hi => ⟨oldBits i hi, oldSd i hi⟩, rxEffect_onlyRx effect, rfl,
    rxOffered_takeRxin s k c, (onlyPorts_of_take k s c).1, rfl⟩

theorem chunkOk_eq_false {g : Cfg} {k : Nat} {c : Chunk} (h : c.n = 0 ∨ g.chunkMax k < c.n ∨ c.cbits.length ≠ c.n ∨
    c.csd.length ≠ c.n ∨ ∃ x ∈ c.csd, g.softOk x = false) : chunkOk g k c = false := by
  refine Bool.eq_false_iff.2 fun ok => ?_
  obtain ⟨pos, fits, hbits, hsd, soft⟩ := (chunkOk_iff g k c).1 ok
  obtain h | h | h | h | ⟨x, hx, h⟩ := h
  · omega
  · omega
  · exact h hbits
  · exact h hsd
  · rw [soft x hx] at h; cases h

/-- Settles O22: the three branches of RX.FILL that take nothing. -/
theorem rxFillWaitsOrRefuses : Obligations.RxFillWaitsOrRefuses := by
  intro s k r hr fatal check hst
  have en := rxEnabled_of hr fatal check hst
  refine ⟨fun none => (en.body _).trans ?_, fun c offered ends => (en.body _).trans ?_,
    fun c offered more bad => (en.body _).trans ?_⟩
  · rw [none]
  · simp only [offered, ends, if_true]
  · simp only [offered, more, chunkOk_eq_false bad, Bool.false_eq_true, if_false, Bool.not_false, if_true]

/-! RX.SEARCH (R192). -/

/-- Settles O23: the offsets tried are those whose unique word ends in the new chunk. -/
theorem rxSearchFindsCandidate : Obligations.RxSearchFindsCandidate := by
  intro s k r hr fatal check hst pos inside
  have en := rxEnabled_of hr fatal check hst
  have lo : searchLo = 12895 := rfl
  have effect : RxEffect k s r _ _ := .search (by rw [lo, Nat.max_eq_left pos]; omega)
  have best := FrameOps.uwSearch_leastMax s.cfg (sd := r.sd) (lo := 12895) (hi := 12942 + r.n - 48) (by omega) (by omega)
  exact ⟨_, _, _, effect.exec_eq rfl en, getElem?_set_chan hr _, best, rxEffect_onlyRx effect, rfl, rfl⟩

/-! RX.VALIDATE (R194). -/

/-- LEN.DEC returns no length above MTU, so an agreed length other than 0 is accepted. -/
theorem verdictOf_legal {la lb : Nat} (legal : la ≤ mtu) :
    verdictOf la lb = if la ≠ lb then .reject else if la = 0 then .filler else .accept := by
  rw [verdictOf, if_pos legal]

/-- Settles O24: the footer read is the 46 soft values before the candidate, and its halves are decoded. -/
theorem rxValidateDecodesFooter : Obligations.RxValidateDecodesFooter := by
  intro s k r hr fatal check hst low inside
  have en := rxEnabled_of hr fatal check hst
  have read := FrameDecode.memRead_inside (xs := r.sd) (pos := r.cand - 46) (n := 46) (by omega)
  have effect : RxEffect k s r _ _ := .validate _ low read
  refine ⟨_, _, _, _, _, effect.exec_eq rfl en, ?_,
    LengthOps.lenDec_leastMax s.cfg (FrameDecode.footA_length r.sd r.cand) false,
    LengthOps.lenDec_leastMax s.cfg (FrameDecode.footB_length r.sd r.cand) true, rxEffect_onlyRx effect, rfl, rfl⟩
  rw [← verdictOf_legal (LengthOps.lenDec_le_mtu s.cfg (footA r.sd r.cand) false)]
  refine (getElem?_set_chan hr _).trans ?_
  rw [validatedRx, FrameDecode.footerDecode_of_memRead read]

/-! RX.EXTRACT (R195). -/

/-- Settles O25: the payload before the footer is in the window, and what is unpacked from it is delivered. -/
theorem rxExtractDeliversPacket : Obligations.RxExtractDeliversPacket := by
  intro s k r hr fatal check hst verdict ready low inside
  have en := rxEnabled_of hr fatal check hst
  have read := FrameDecode.memRead_inside (FrameDecode.payload_inside low inside)
  have effect := RxEffect.deliver (k := k) (s := s) _ verdict ready low read
  exact ⟨_, _, effect.exec_eq rfl en, getElem?_set_chan hr _, FrameDecode.unpack_isPayload read,
    List.append_assoc .., rxEffect_onlyRx effect, rfl⟩

/-- Settles O26: the branches of RX.EXTRACT that deliver nothing. -/
theorem rxExtractWithoutDelivery : Obligations.RxExtractWithoutDelivery := by
  intro s k r hr fatal check hst
  have en := rxEnabled_of hr fatal check hst
  refine ⟨fun accepted busy => (en.body _).trans ?_, fun rejected => (RxEffect.reject rejected).exec_eq rfl en,
    fun other => (RxEffect.drop other).exec_eq rfl en⟩
  simp only [accepted, busy, Bool.not_false, if_true]

/-! RX.SHIFT (R196). -/

/-- Shifting `n` copies of `z` in moves every element down by `n` and leaves `z` at the end. -/
theorem shiftIn_replicate {α : Type} {xs ys : List α} {z : α} {n : Nat} (h : shiftIn xs (List.replicate n z) = some ys) :
    (∀ i, i + n < xs.length → ys[i]? = xs[i + n]?) ∧
      ∀ i, xs.length ≤ i + n → i < xs.length → ys[i]? = some z := by
  have fits := (shiftIn_eq_some.1 h).1
  rw [List.length_replicate] at fits
  refine ⟨fun i hi => ?_, fun i past hi => ?_⟩
  · rw [shiftIn_getElem? h, List.length_replicate, if_pos hi]
  · rw [shiftIn_getElem? h, List.length_replicate, if_neg (by omega), List.getElem?_replicate_of_lt (by omega)]

/-- Settles O27: both halves of the window shift by `n`. -/
theorem rxShiftMovesWindow : Obligations.RxShiftMovesWindow := by
  intro s k r hr fatal check hst fitsBits fitsSd
  have en := rxEnabled_of hr fatal check hst
  have shiftBits := shiftIn_inside (xs := r.bits) (tail := List.replicate r.n false) (by simpa using fitsBits)
  have shiftSd := shiftIn_inside (xs := r.sd) (tail := List.replicate r.n 0) (by simpa using fitsSd)
  have effect : RxEffect k s r _ _ := .shift _ _ shiftBits shiftSd
  obtain ⟨movedBits, zeroBits⟩ := shiftIn_replicate shiftBits
  obtain ⟨movedSd, zeroSd⟩ := shiftIn_replicate shiftSd
  exact ⟨_, _, _, effect.exec_eq rfl en, getElem?_set_chan hr _, shiftIn_length shiftBits, shiftIn_length shiftSd,
    movedBits, movedSd, zeroBits, zeroSd, rxEffect_onlyRx effect, rfl, rfl⟩

/-! RX.HALT (R197). -/

/-- Settles O28: at an end of stream RX.HALT has its effect; the other two branches take nothing. -/
theorem rxHaltEndsWorker : Obligations.RxHaltEndsWorker := by
  intro s k r hr fatal check hst
  have en := rxEnabled_of hr fatal check hst
  refine ⟨fun c offered ends => ?_, fun none => (en.body _).trans ?_, fun c offered more => (en.body _).trans ?_⟩
  · have effect := RxEffect.halt (r := r) c offered ends
    exact ⟨_, effect.exec_eq rfl en, getElem?_set_chan hr _, rxEffect_onlyRx effect, List.append_assoc ..,
      rxOffered_takeRxin s k c, (onlyPorts_of_take k s c).1, rfl⟩
  · rw [none]
  · simp only [offered, more, Bool.false_eq_true, if_false]

/-! The window across one iteration (R198). -/

/-- Write `v` at BASE, shift the whole by the length of `v`: BASE elements later the window is the end of the stream. -/
theorem window_after_iteration {α : Type} {xs v ys zs tail : List α} {n : Nat} (hv : v.length = n)
    (write : memWrite xs 12942 v = some ys) (ht : tail.length = n) (shift : shiftIn ys tail = some zs) :
    zs.take 12942 = (xs.take 12942 ++ v).drop n := by
  obtain ⟨inside, rfl⟩ := memWrite_eq_some.1 write
  obtain ⟨-, rfl⟩ := shiftIn_eq_some.1 shift
  have stream : (xs.take 12942 ++ v).length = 12942 + n := by
    rw [List.length_append, List.length_take]; omega
  rw [ht, List.drop_append_of_le_length (by omega), List.append_assoc]
  exact List.take_left' (by rw [List.length_drop]; omega)

/-- Settles O29: the effects of RX.FILL and of RX.SHIFT on one window, one after the other. -/
theorem windowIsLastOfStream : Obligations.WindowIsLastOfStream := by
  intro s t u v k r ru c hr lenBits lenSd offered fill filled hst hru shifting fatal check shift
  obtain ⟨rt, hrt, searching, sameBits, sameSd, sameN⟩ := filled
  obtain rfl | ⟨r', en, effect⟩ := worker_inv (i := .rxFill k) rfl fill
  · cases hr.symm.trans hrt
    cases hst.symm.trans searching
  cases en.chan.symm.trans hr
  cases effect with
  | fill c' bits sd offered' more ok writeBits writeSd =>
  cases offered'.symm.trans offered
  cases (getElem?_set_chan hr _).symm.trans hrt
  obtain ⟨-, -, hbits, hsd, -⟩ := (chunkOk_iff _ _ _).1 ok
  have enShift := rxEnabled_of hru fatal check shifting
  have shift := (enShift.body _).symm.trans shift
  obtain ⟨bits', shiftBits, shift⟩ := shiftOr_eq_next.1 shift
  obtain ⟨sd', shiftSd, shift⟩ := shiftOr_eq_next.1 shift
  cases shift
  have size : ru.n = c.n := sameN
  rw [sameBits] at shiftBits
  rw [sameSd] at shiftSd
  exact ⟨_, getElem?_set_chan hru _, window_after_iteration hbits writeBits (by rw [List.length_replicate, size]) shiftBits,
    window_after_iteration hsd writeSd (by rw [List.length_replicate, size]) shiftSd⟩

end Sys2Proof.Proofs.RxWorker

/-! Transmit scheduler (44_tx_scheduler.md): each operation's effect read off `SchEffect`, and what the scheduler leaves alone. -/

namespace Sys2Proof.Proofs.TxScheduler

open Sys2Proof Sys2Proof.Machine Sys2Proof.Proofs.Effects

theorem schEnabled_of {s : State} {ph : Phase} (fatal : s.fatal = false) (check : s.chkPending = false)
    (hph : s.sch.ph = ph) : SchEnabled s ph := ⟨(running_iff s).2 ⟨fatal, check⟩, hph⟩

theorem onlySchTx_of_same (c : Nat) {s t : State} (tx : t.tx = s.tx)
    (rest : t.rx = s.rx ∧ t.fatal = s.fatal ∧ t.fatalCode = s.fatalCode ∧ t.cfg = s.cfg ∧ t.chkPending = s.chkPending ∧
      t.ret = s.ret ∧ t.script = s.script ∧ t.turn = s.turn ∧ t.freeCtr = s.freeCtr) : OnlySchTx c s t :=
  ⟨by rw [tx], fun _ _ => by rw [tx], rest⟩

/-- Replacing channel `c` and the scheduler, and nothing else of the block, is `OnlySchTx`. -/
theorem onlySchTx_of_set {c : Nat} {s t : State} {u : TxChan} (tx : t.tx = s.tx.set c u)
    (rest : t.rx = s.rx ∧ t.fatal = s.fatal ∧ t.fatalCode = s.fatalCode ∧ t.cfg = s.cfg ∧ t.chkPending = s.chkPending ∧
      t.ret = s.ret ∧ t.script = s.script ∧ t.turn = s.turn ∧ t.freeCtr = s.freeCtr) : OnlySchTx c s t :=
  ⟨by rw [tx, List.length_set], fun _ hj => by rw [tx, List.getElem?_set_ne hj.symm], rest⟩

theorem getElem?_set_tx {s : State} {c : Nat} {u : TxChan} (hu : s.tx[c]? = some u) (u' : TxChan) :
    (s.tx.set c u')[c]? = some u' :=
  List.getElem?_set_self (List.getElem?_eq_some_iff.1 hu).1

/-! TX.WAIT (R214). -/

theorem readyFlags_getElem? {tx : List TxChan} {c : Nat} {u : TxChan} (hu : tx[c]? = some u) (rdy : List Bool) :
    (readyFlags tx rdy)[c]? = some (u.alive && rdy.getD c false) := by
  obtain ⟨inside, rfl⟩ := List.getElem?_eq_some_iff.1 hu
  simp [readyFlags, inside]

@[simp] theorem readyFlags_length (tx : List TxChan) (rdy : List Bool) : (readyFlags tx rdy).length = tx.length := by
  simp [readyFlags]

theorem readyFlags_any (tx : List TxChan) (rdy : List Bool) : (readyFlags tx rdy).any id = true ↔
    ∃ (c : Nat) (u : TxChan), tx[c]? = some u ∧ u.alive = true ∧ rdy.getD c false = true := by
  rw [List.any_eq_true]
  constructor
  · rintro ⟨b, hb, ready⟩
    obtain ⟨c, hc⟩ := List.getElem?_of_mem hb
    have inside : c < tx.length := by
      have := (List.getElem?_eq_some_iff.1 hc).1
      rwa [readyFlags_length] at this
    have hu := List.getElem?_eq_getElem inside
    rw [readyFlags_getElem? hu] at hc
    cases hc
    obtain ⟨alive, rdy⟩ := Bool.and_eq_true_iff.1 ready
    exact ⟨c, _, hu, alive, rdy⟩
  · rintro ⟨c, u, hu, alive, ready⟩
    exact ⟨_, List.mem_of_getElem? (readyFlags_getElem? hu rdy), by rw [alive, ready]; rfl⟩

/-- A watched event is present: a packet while the slot is empty, or a live channel that is ready (R213, R214). -/
theorem eventPresent_iff (s : State) : s.eventPresent = true ↔ (s.sch.pendValid = false ∧ s.env.devPkts ≠ []) ∨
    ∃ (c : Nat) (u : TxChan), s.tx[c]? = some u ∧ u.alive = true ∧ s.env.txRdy.getD c false = true := by
  rw [State.eventPresent, Bool.or_eq_true, readyFlags_any]
  simp [Sched.watchDev, Env.devAvail]

/-- Settles O32: the operation's test is the presence of a watched event. -/
theorem txWaitLatchesEvents : Obligations.TxWaitLatchesEvents := by
  intro s fatal check hph
  have en := schEnabled_of fatal check hph
  rw [← eventPresent_iff]
  exact ⟨fun event => ⟨_, (SchEffect.wait event).exec_eq rfl en, readyFlags_length _ _,
    fun c u hu => readyFlags_getElem? hu _⟩, fun none => (en.body _).trans (if_neg none)⟩

/-! TX.DEVRD (R215) and TX.ABORT (R223). -/

/-- Settles O33: a legal packet fits in the slot. -/
theorem txDevrdTakesPacket : Obligations.TxDevrdTakesPacket := by
  intro s p rest fatal check hph ev empty offered legal size
  have en := schEnabled_of fatal check hph
  have write := memWrite_inside (xs := s.sch.pendData) (v := p) (pos := 0) (by omega)
  have effect := SchEffect.take p rest _ ev empty offered legal write
  refine ⟨_, _, effect.exec_eq rfl en, rfl, (memWrite_length write).trans size, fun i hi => ?_, fun i hi => ?_, rfl, ?_, rfl,
    onlySchTx_of_same 0 rfl ⟨rfl, rfl, rfl, rfl, rfl, rfl, rfl, rfl, rfl⟩⟩
  · rw [memWrite_getElem? write, if_pos (by omega), Nat.sub_zero]
  · rw [memWrite_getElem? write, if_neg (by omega)]
  · simp [offered]

/-- Settles O34: the branches of TX.DEVRD that take no packet. -/
theorem txDevrdOtherCases : Obligations.TxDevrdOtherCases := by
  intro s fatal check hph
  have en := schEnabled_of fatal check hph
  refine ⟨fun ev => (SchEffect.noEvent ev).exec_eq rfl en, fun ev empty gone => (en.body _).trans ?_,
    fun p rest ev empty offered long => (en.body _).trans ?_⟩
  · simp only [ev, empty, gone, Bool.not_true, Bool.false_eq_true, if_false]
  · have long : mtu < p.length := long
    simp only [ev, empty, offered, Bool.not_true, Bool.false_eq_true, if_false, if_pos long]

/-- Settles O41: the abort is one effect, under either name. -/
theorem txAbortIsFatal : Obligations.TxAbortIsFatal := by
  intro s fatal check hph ev full
  have en := schEnabled_of fatal check hph
  have abort := (SchEffect.abort _ (.inr rfl) ev full).exec_eq rfl en
  exact ⟨abort, ((SchEffect.abort _ (.inl rfl) ev full).exec_eq rfl en).trans abort.symm⟩

/-! TX.ASSIGN (R216). -/

theorem isFree_iff (u : TxChan) : u.isFree = true ↔ u.alive = true ∧ u.real ≤ 48 := by simp [TxChan.isFree]

theorem not_isFree_iff (u : TxChan) : u.isFree = false ↔ u.alive = false ∨ 48 < u.real := by
  rw [← Bool.not_eq_true, isFree_iff, not_and_or, Bool.not_eq_true, Nat.not_le]

/-- The channel found is free, and none before it is. -/
theorem findIdx_free_iff (tx : List TxChan) (c : Nat) : tx.findIdx? TxChan.isFree = some c ↔
    ∃ u, tx[c]? = some u ∧ u.isFree = true ∧ ∀ (j : Nat) (w : TxChan), j < c → tx[j]? = some w → w.isFree = false := by
  rw [List.findIdx?_eq_some_iff_getElem]
  constructor
  · rintro ⟨inside, free, least⟩
    refine ⟨_, List.getElem?_eq_getElem inside, free, fun j w hj hw => ?_⟩
    obtain ⟨hlt, rfl⟩ := List.getElem?_eq_some_iff.1 hw
    simpa using least j hj
  · rintro ⟨u, hu, free, least⟩
    obtain ⟨inside, rfl⟩ := List.getElem?_eq_some_iff.1 hu
    exact ⟨inside, free, fun j hj => by simpa using least j _ hj (List.getElem?_eq_getElem (by omega))⟩

theorem findIdx_none {tx : List TxChan} (h : ∀ (c : Nat) (u : TxChan), tx[c]? = some u → u.isFree = false) :
    tx.findIdx? TxChan.isFree = none := by
  rw [List.findIdx?_eq_none_iff]
  intro u hu
  obtain ⟨c, hc⟩ := List.getElem?_of_mem hu
  exact h c u hc

/-- Settles O35: the least free channel is the one the operation finds, and the frame fits behind its real data. -/
theorem txAssignQueuesFrame : Obligations.TxAssignQueuesFrame := by
  rintro s c u f fatal check hph full hu alive real least slot rfl room
  have en := schEnabled_of fatal check hph
  have found : s.tx.findIdx? TxChan.isFree = some c := (findIdx_free_iff _ _).2
    ⟨u, hu, (isFree_iff u).2 ⟨alive, real⟩, fun j w hj hw => (not_isFree_iff w).2 (least j w hj hw)⟩
  have write := memWrite_inside (v := slotFrame s u) room
  have effect := SchEffect.queue c u _ full found hu slot write
  refine ⟨_, _, effect.exec_eq rfl en, getElem?_set_tx hu _, memWrite_length write, fun i hi => ?_, fun i hi => ?_, rfl, rfl,
    onlySchTx_of_set rfl ⟨rfl, rfl, rfl, rfl, rfl, rfl, rfl, rfl, rfl⟩, rfl⟩
  · rw [memWrite_getElem? write, if_pos ⟨Nat.le_add_right _ _, Nat.add_lt_add_left hi _⟩, Nat.add_sub_cancel_left]
    rfl
  · have outside : ¬ (u.real ≤ i ∧ i < u.real + (slotFrame s u).length) := by
      rintro ⟨ge, lt⟩
      exact hi.elim (Nat.not_lt.2 ge) (Nat.not_le.2 lt)
    rw [memWrite_getElem? write, if_neg outside]

/-- Settles O36: the two effects of TX.ASSIGN that queue nothing. -/
theorem txAssignBusyOrEmpty : Obligations.TxAssignBusyOrEmpty := by
  intro s fatal check hph
  have en := schEnabled_of fatal check hph
  refine ⟨fun empty => ?_, fun full none => ?_⟩
  · have effect := (SchEffect.idle empty).exec_eq rfl en
    rw [assignedSch, ← empty] at effect
    exact effect
  · have effect := (SchEffect.busy full (findIdx_none fun c u hu => (not_isFree_iff u).2 (none c u hu))).exec_eq rfl en
    rw [assignedSch, ← full] at effect
    exact effect

theorem slotFrame_length {s : State} {u : TxChan} (slot : s.sch.pendLen ≤ s.sch.pendData.length) :
    (slotFrame s u).length = (if u.real = 0 then 142 else 94) + 8 * s.sch.pendLen := by
  rw [slotFrame, FrameOps.frmEnc_length, List.length_take, Nat.min_eq_left slot]
  simp [TxChan.needUw]

/-- Settles O37: the only effect of TX.ASSIGN on a channel is to queue a frame, of at least 94 bits, into a free one. -/
theorem assignmentOnlyToFreeChannel : Obligations.AssignmentOnlyToFreeChannel := by
  intro s t c u u' h hu hu' changed
  have unchanged (same : t.tx[c]? = s.tx[c]?) : False :=
    changed (Option.some.inj (hu'.symm.trans (same.trans hu)))
  obtain rfl | ⟨-, effect⟩ := sched_inv (i := .txAssign) rfl h
  · exact (unchanged rfl).elim
  cases effect with
  | abort _ op => exact op.elim (fun e => nomatch e) (fun e => nomatch e)
  | fail _ _ op => exact op.elim (fun e => nomatch e) (fun e => nomatch e)
  | idle => exact (unchanged rfl).elim
  | busy => exact (unchanged rfl).elim
  | queue d w q full found hw slot write =>
    by_cases other : c = d
    · subst other
      cases hw.symm.trans hu
      cases (getElem?_set_tx hu _).symm.trans hu'
      obtain ⟨w', hw', free, -⟩ := (findIdx_free_iff _ _).1 found
      cases hw'.symm.trans hu
      obtain ⟨alive, real⟩ := (isFree_iff u).1 free
      have size := slotFrame_length (u := u) slot
      have count : (queuedTx s u q).real = u.real + (slotFrame s u).length := rfl
      refine ⟨alive, real, full, rfl, by omega, ?_, alive⟩
      split at size <;> omega
    · exact (unchanged (List.getElem?_set_ne (Ne.symm other))).elim

/-! TX.DRAIN (R218) and TX.FAIL (R222). -/

/-- Settles O38: the quantum fits in the queue, and what comes in at its tail is filler. -/
theorem txDrainEmitsQuantum : Obligations.TxDrainEmitsQuantum := by
  intro s u fatal check hph hu ready alive answer whole
  have en := schEnabled_of fatal check hph
  have size : (filler (s.cfg.quantum s.sch.ci)).length = s.cfg.quantum s.sch.ci := fillerBits_length _
  have shifted := shiftIn_inside (xs := u.q) (tail := filler (s.cfg.quantum s.sch.ci)) (by omega)
  have effect := SchEffect.drain u _ ⟨hu, ready, alive, whole⟩ answer shifted
  refine ⟨_, _, effect.exec_eq rfl en, ?_, shiftIn_length shifted, fun i hi => ?_, fun j hj => ?_, rfl, rfl,
    onlySchTx_of_set rfl ⟨rfl, rfl, rfl, rfl, rfl, rfl, rfl, rfl, rfl⟩, rfl⟩
  · have floor : (if s.cfg.quantum s.sch.ci ≤ u.real then u.real - s.cfg.quantum s.sch.ci else 0) =
        u.real - s.cfg.quantum s.sch.ci := by split <;> omega
    rw [floor]
    exact getElem?_set_tx hu _
  · rw [shiftIn_getElem? shifted, size, if_pos hi]
  · rw [shiftIn_getElem? shifted, size, if_neg (by omega), Nat.add_sub_cancel_left, FrameOps.filler_getElem? hj]

/-- Settles O39: the branches of TX.DRAIN that emit nothing. -/
theorem txDrainSkipsOrWaits : Obligations.TxDrainSkipsOrWaits := by
  intro s u fatal check hph hu
  have en := schEnabled_of fatal check hph
  refine ⟨fun off => (SchEffect.skip u hu off).exec_eq rfl en, fun ready alive whole answer => ?_⟩
  have due : DrainDue s u := ⟨hu, ready, alive, whole⟩
  refine (en.body _).trans ((due.target _ _).trans ((due.read _).trans ?_))
  simp only [answer]

/-- Settles O40: the failure is one effect, under either name. -/
theorem txFailKillsChannel : Obligations.TxFailKillsChannel := by
  intro s u fatal check hph hu ready alive answer whole
  have en := schEnabled_of fatal check hph
  have due : DrainDue s u := ⟨hu, ready, alive, whole⟩
  exact ⟨_, (SchEffect.fail _ u (.inr rfl) due answer).exec_eq rfl en,
    (SchEffect.fail _ u (.inl rfl) due answer).exec_eq rfl en, getElem?_set_tx hu _, rfl, List.append_assoc ..,
    onlySchTx_of_set rfl ⟨rfl, rfl, rfl, rfl, rfl, rfl, rfl, rfl, rfl⟩, rfl⟩

/-! What the scheduler leaves alone. -/

section
variable {s t : State} {i : Instr}

/-- The parts of the state no operation of the scheduler touches. -/
theorem schEffect_frame (h : SchEffect s i t) : t.rx = s.rx ∧ t.cfg = s.cfg ∧ t.chkPending = s.chkPending ∧
    t.ret = s.ret ∧ t.script = s.script ∧ t.turn = s.turn ∧ t.freeCtr = s.freeCtr := by
  cases h <;> exact ⟨rfl, rfl, rfl, rfl, rfl, rfl, rfl⟩

theorem schEffect_log (h : SchEffect s i t) : ∃ new, t.log = s.log ++ new := by
  cases h with
  | wait | noEvent | idle | skip => exact ⟨[], (List.append_nil _).symm⟩
  | abort | take | busy | queue | drain => exact ⟨[_], rfl⟩
  | fail => exact ⟨[_, _], List.append_assoc ..⟩

theorem schEffect_tx_length (h : SchEffect s i t) : t.tx.length = s.tx.length := by
  cases h with
  | wait | noEvent | abort | take | idle | busy | skip => rfl
  | queue | drain | fail => exact List.length_set

theorem schEffect_env (h : SchEffect s i t) :
    t.env = { s.env with devPkts := t.env.devPkts, txRdy := t.env.txRdy, txAns := t.env.txAns } := by
  cases h <;> rfl

/-- Only the channel named by `touchedTx` changes, its readiness and its answer included. -/
theorem schEffect_untouched (h : SchEffect s i t) {j : Nat} (hj : touchedTx i s ≠ some j) :
    t.tx[j]? = s.tx[j]? ∧ t.env.txRdy[j]? = s.env.txRdy[j]? ∧ t.env.txAns[j]? = s.env.txAns[j]? := by
  cases h with
  | wait | noEvent | abort | take | idle | busy | skip => exact ⟨rfl, rfl, rfl⟩
  | queue c u q full found =>
    have ne : c ≠ j := fun e => hj (found.trans (congrArg some e))
    exact ⟨List.getElem?_set_ne ne, rfl, rfl⟩
  | drain =>
    have ne : s.sch.ci ≠ j := fun e => hj (congrArg some e)
    exact ⟨List.getElem?_set_ne ne, List.getElem?_set_ne ne, List.getElem?_set_ne ne⟩
  | fail _ u op =>
    have ne : s.sch.ci ≠ j := fun e => hj (by rcases op with rfl | rfl <;> exact congrArg some e)
    exact ⟨List.getElem?_set_ne ne, List.getElem?_set_ne ne, List.getElem?_set_ne ne⟩

theorem schEffect_devPkts (h : SchEffect s i t) (other : i ≠ .txDevrd) : t.env.devPkts = s.env.devPkts := by
  cases h with
  | take => exact absurd rfl other
  | wait | noEvent | abort | idle | busy | queue | skip | drain | fail => rfl

theorem schEffect_readiness (h : SchEffect s i t) (noDrain : i ≠ .txDrain) (noFail : i ≠ .txFail) :
    t.env.txRdy = s.env.txRdy ∧ t.env.txAns = s.env.txAns := by
  cases h with
  | wait | noEvent | abort | take | idle | busy | queue | skip => exact ⟨rfl, rfl⟩
  | drain => exact absurd rfl noDrain
  | fail _ _ op => exact (op.elim noDrain noFail).elim

end

/-- Settles O42: whatever an operation of the scheduler does is one of its effects, or a wait. -/
theorem schedulerLeavesWorkersAlone : Obligations.SchedulerLeavesWorkersAlone := by
  intro i ph s t hi h
  obtain rfl | ⟨-, effect⟩ := sched_inv hi h
  · exact ⟨rfl, rfl, rfl, rfl, rfl, rfl, rfl, ⟨[], (List.append_nil _).symm⟩, rfl, fun _ _ => ⟨rfl, rfl, rfl⟩, rfl,
      fun _ => rfl, fun _ _ => ⟨rfl, rfl⟩⟩
  · obtain ⟨rx, cfg, check, ret, script, turn, ctr⟩ := schEffect_frame effect
    exact ⟨rx, cfg, check, ret, script, turn, ctr, schEffect_log effect, schEffect_tx_length effect,
      fun _ hj => schEffect_untouched effect hj, schEffect_env effect, schEffect_devPkts effect,
      schEffect_readiness effect⟩

end Sys2Proof.Proofs.TxScheduler

/-! Causes, reset and start-up (60_exceptions.md, 70_reset_and_hazards.md), the status outputs, and how a step chooses what it runs. -/

namespace Sys2Proof.Proofs.SystemOps

open Sys2Proof Sys2Proof.Machine Sys2Proof.Proofs.Effects

/-! Operations that are not enabled. -/

theorem not_running {s : State} (h : s.fatal = true ∨ s.chkPending = true) : s.running = false := by
  rcases h with h | h <;> simp [State.running, h]

theorem and_beq_eq_false {α : Type} [BEq α] [LawfulBEq α] {b : Bool} {x y : α} (off : b = false ∨ x ≠ y) :
    (b && x == y) = false := by
  rcases off with h | h
  · rw [h, Bool.false_and]
  · rw [beq_eq_false_iff_ne.2 h, Bool.and_false]

theorem workerStep_disabled {k : Nat} {st : RxSt} {s : State} {r : RxChan} (hr : s.rx[k]? = some r)
    (off : s.running = false ∨ r.st ≠ st) (body : RxChan → Out) : workerStep k st s body = .next s := by
  simp only [workerStep, hr, and_beq_eq_false off, Bool.false_eq_true, if_false]

theorem schedStep_disabled {ph : Phase} {s : State} (off : s.running = false ∨ s.sch.ph ≠ ph) (body : Out) :
    schedStep ph s body = .next s := by
  simp only [schedStep, and_beq_eq_false off, Bool.false_eq_true, if_false]

theorem worker_disabled {i : Instr} {k : Nat} {st : RxSt} {s : State} {r : RxChan} (hi : workerStateOf i = some (k, st))
    (hr : s.rx[k]? = some r) (off : s.running = false ∨ r.st ≠ st) : exec i s = .next s := by
  obtain ⟨body, step⟩ := worker_step hi s
  exact step.trans (workerStep_disabled hr off body)

theorem sched_disabled {i : Instr} {ph : Phase} {s : State} (hi : phaseOf i = some ph)
    (off : s.running = false ∨ s.sch.ph ≠ ph) : exec i s = .next s := by
  obtain ⟨body, step⟩ := sched_step hi s
  exact step.trans (schedStep_disabled off body)

/-- Settles O31: every operation of an agent tests first whether it is enabled. -/
theorem disabledOperationChangesNothing : Obligations.DisabledOperationChangesNothing := by
  refine ⟨fun i k st s r hi hr off => ?_, fun i k st s hi absent => ?_, fun i ph s hi off => ?_⟩
  · exact worker_disabled hi hr ((or_assoc.2 off).imp_left not_running)
  · obtain ⟨body, step⟩ := worker_step hi s
    rw [step, workerStep, List.getElem?_eq_none absent]
  · exact sched_disabled hi ((or_assoc.2 off).imp_left not_running)

/-! SYS.RESET (R280). -/

theorem resetState_rx (s : State) {k : Nat} (hk : k < s.env.cfgIn.nrx) :
    (resetState s).rx[k]? = some (resetRx s.env.cfgIn k) := by
  simp [resetState, resetBlock, hk]

theorem resetState_tx (s : State) {c : Nat} (hc : c < s.env.cfgIn.ntx) :
    (resetState s).tx[c]? = some (resetTx s.env.cfgIn c) := by
  simp [resetState, resetBlock, hc]

/-- The scheduler's values of the table; of the slot's bytes nothing is said. -/
theorem resetSched_table (g : Cfg) (pend : List Byte) : resetSched g pend =
    { ph := .wait, evDev := false, evWr := List.replicate g.ntx false, ci := 0, pendValid := false, pendLen := 0,
      pendData := (resetSched g pend).pendData } := rfl

/-- Settles O43: the reset state holds the table's value in each element. -/
theorem sysResetRestoresTable : Obligations.SysResetRestoresTable := by
  refine fun s => ⟨fun rst => ⟨_, sysReset_asserted rst, rfl, rfl, rfl, rfl, ?_, fun k => resetState_rx s, ?_,
    fun c hc => ⟨_, resetState_tx s hc, rfl, rfl, ?_, fun i hi => ?_⟩, resetSched_table _ _, ?_, rfl, rfl, rfl⟩,
    sysReset_released⟩
  · simp [resetState, resetBlock]
  · simp [resetState, resetBlock]
  · exact fillerBits_length (s.env.cfgIn.wTx c)
  · have inside : i < s.env.cfgIn.wTx c := hi.trans_eq (fillerBits_length (s.env.cfgIn.wTx c))
    exact FrameOps.filler_getElem? inside
  · simp [resetState, resetBlock, resetSched, freePend]

/-! SYS.CFGCHK (R283). -/

/-- The tests of R283, in their order. -/
theorem cfgFailure_eq (s : State) : cfgFailure s =
    if s.env.argsOk = false then some 1
    else if s.cfg.valid = false then some 2
    else if ∃ c, c < s.cfg.ntx ∧ s.env.txSinkOk.getD c false = false then some 3
    else if s.env.devOk = false then some 4
    else none := by
  simp [cfgFailure, startupLevel]

theorem no_sink_failed {n : Nat} {sinks : List Bool} (all : ∀ c, c < n → sinks.getD c false = true) :
    ¬ ∃ c, c < n ∧ sinks.getD c false = false := by
  rintro ⟨c, hc, failed⟩
  rw [all c hc] at failed
  cases failed

/-- Looking at the first `n` receive sources. -/
def openFirst (n : Nat) (s : State) : State := (List.range n).foldl openSource s

theorem openFirst_succ (n : Nat) (s : State) : openFirst (n + 1) s = openSource (openFirst n s) n := by
  simp [openFirst, List.range_succ]

/-- A source that did not open. -/
def sourceFailed (s : State) (k : Nat) : Bool := !startupLevel s.env.rxSrcOk k

theorem openSource_eq (s : State) (k : Nat) : openSource s k =
    if sourceFailed s k then (s.haltRx k .rxOpen).traceEv 0x51 (some k) .rxOpen [] else s := by
  rw [openSource, sourceFailed, raiseCause_terminalRx rfl]
  cases startupLevel s.env.rxSrcOk k <;> rfl

/-- What opening sources leaves alone: all but the receive channels and the log. -/
structure OpenFrame (s t : State) : Prop where
  fatal      : t.fatal = s.fatal
  fatalCode  : t.fatalCode = s.fatalCode
  tx         : t.tx = s.tx
  sch        : t.sch = s.sch
  cfg        : t.cfg = s.cfg
  env        : t.env = s.env
  chkPending : t.chkPending = s.chkPending

theorem openSource_frame (s : State) (k : Nat) : OpenFrame s (openSource s k) := by
  rw [openSource_eq]
  split
  · exact ⟨by simp, by simp, by simp, by simp, by simp, by simp, by simp⟩
  · exact ⟨rfl, rfl, rfl, rfl, rfl, rfl, rfl⟩

theorem openFirst_frame (n : Nat) (s : State) : OpenFrame s (openFirst n s) := by
  induction n with
  | zero => exact ⟨rfl, rfl, rfl, rfl, rfl, rfl, rfl⟩
  | succ n ih =>
    rw [openFirst_succ]
    have last := openSource_frame (openFirst n s) n
    exact ⟨last.fatal.trans ih.fatal, last.fatalCode.trans ih.fatalCode, last.tx.trans ih.tx, last.sch.trans ih.sch,
      last.cfg.trans ih.cfg, last.env.trans ih.env, last.chkPending.trans ih.chkPending⟩

theorem haltRx_getElem? (s : State) (k : Nat) (c : Cause) (j : Nat) :
    (s.haltRx k c).rx[j]? = s.rx[j]?.map fun r => if j = k then haltedRx r c else r := by
  rw [State.haltRx_rx]
  by_cases same : j = k
  · subst same
    cases hr : s.rx[j]? with
    | none => simp [hr]
    | some r =>
      have inside := (List.getElem?_eq_some_iff.1 hr).1
      simp [inside, haltedRx]
  · cases s.rx[k]? with
    | none => simp [same]
    | some r => simp [same, List.getElem?_set_ne (Ne.symm same)]

/-- The worker `j` once the first `n` sources have been looked at. -/
def openedRx (s : State) (n j : Nat) (r : RxChan) : RxChan :=
  if j < n ∧ sourceFailed s j = true then haltedRx r .rxOpen else r

theorem openSource_rx (s : State) (k j : Nat) : (openSource s k).rx[j]? =
    s.rx[j]?.map fun r => if j = k ∧ sourceFailed s j = true then haltedRx r .rxOpen else r := by
  rw [openSource_eq]
  by_cases failed : sourceFailed s k = true
  · rw [if_pos failed, State.traceEv_rx, haltRx_getElem?]
    congr 1
    funext r
    by_cases same : j = k
    · simp [same, failed]
    · simp [same]
  · rw [if_neg failed]
    have keep (r : RxChan) : (if j = k ∧ sourceFailed s j = true then haltedRx r .rxOpen else r) = r :=
      if_neg fun ⟨same, h⟩ => failed (same ▸ h)
    simp only [keep, Option.map_id']

theorem openFirst_rx (n : Nat) (s : State) (j : Nat) : (openFirst n s).rx[j]? = s.rx[j]?.map (openedRx s n j) := by
  induction n with
  | zero =>
    have none : openedRx s 0 j = id := funext fun r => if_neg fun h => Nat.not_lt_zero j h.1
    rw [none, Option.map_id]
    rfl
  | succ n ih =>
    have inputs : sourceFailed (openFirst n s) j = sourceFailed s j := by
      rw [sourceFailed, (openFirst_frame n s).env]; rfl
    rw [openFirst_succ, openSource_rx, ih, Option.map_map, inputs]
    congr 1
    funext r
    rcases Nat.lt_trichotomy j n with lt | rfl | gt
    · simp [openedRx, lt, show j < n + 1 by omega, show j ≠ n by omega]
    · simp [openedRx]
    · simp [openedRx, show ¬ j < n by omega, show ¬ j < n + 1 by omega, show j ≠ n by omega]

theorem openFirst_log (n : Nat) (s : State) : (openFirst n s).log = s.log ++ ((List.range n).filter (sourceFailed s)).map
    fun k => .trace { op := 0x51, ch := some k, code := .rxOpen, info := [] } := by
  induction n with
  | zero => simp [openFirst]
  | succ n ih =>
    have inputs : sourceFailed (openFirst n s) n = sourceFailed s n := by
      rw [sourceFailed, (openFirst_frame n s).env]; rfl
    rw [openFirst_succ, openSource_eq, inputs, List.range_succ, List.filter_append, List.map_append]
    cases failed : sourceFailed s n with
    | true => simp [ih, failed]
    | false => simp [ih, failed]

/-- Settles O44: the first failing test decides; where none fails the sources are opened one after the other. -/
theorem sysCfgchkTestsInOrder : Obligations.SysCfgchkTestsInOrder := by
  refine fun s => ⟨fun due rst => ⟨fun i failing => ?_, fun args valid dev sinks channels => ?_⟩, sysCfgchk_not_due⟩
  · have number : cfgFailure s = some i := by
      rw [cfgFailure_eq]
      obtain ⟨rfl, args⟩ | ⟨rfl, args, valid⟩ | ⟨rfl, args, valid, sink⟩ | ⟨rfl, args, valid, dev, sinks⟩ := failing
      · rw [if_pos args]
      · rw [if_neg (by simp [args]), if_pos valid]
      · rw [if_neg (by simp [args]), if_neg (by simp [valid]), if_pos sink]
      · rw [if_neg (by simp [args]), if_neg (by simp [valid]), if_neg (no_sink_failed sinks), if_pos dev]
    rw [sysCfgchk_due due rst, number]
    rfl
  · have pass : cfgFailure s = none := by
      rw [cfgFailure_eq, if_neg (by simp [args]), if_neg (by simp [valid]), if_neg (no_sink_failed sinks),
        if_neg (by simp [dev])]
    have frame := openFirst_frame s.cfg.nrx { s with chkPending := false }
    refine ⟨openFirst s.cfg.nrx { s with chkPending := false }, ?_, frame.chkPending, frame.fatal, frame.fatalCode, frame.tx,
      frame.sch, frame.cfg, frame.env, fun k r hr => ?_, openFirst_log s.cfg.nrx { s with chkPending := false }⟩
    · rw [sysCfgchk_due due rst, pass]
      rfl
    · have exists_ : k < s.cfg.nrx := channels ▸ (List.getElem?_eq_some_iff.1 hr).1
      rw [openFirst_rx]
      show s.rx[k]?.map _ = _
      rw [hr, Option.map_some, openedRx, sourceFailed, startupLevel]
      cases s.env.rxSrcOk.getD k false <;> simp [exists_, haltedRx]

/-! What the effects do to `fatal`, the configuration and what has stopped. -/

theorem openSources_frame (s : State) :
    OpenFrame { s with chkPending := false } (openSources { s with chkPending := false }) := openFirst_frame _ _

/-- In a fatal state with no check due, nothing but a reset does anything. -/
theorem fatal_still {i : Instr} {s t : State} (fatal : s.fatal = true) (reset : i ≠ .sysReset)
    (check : i = .sysCfgchk → s.chkPending = false) (h : exec i s = .next t) : t = s ∨ ∃ v, t = s.setRet v := by
  have stopped : s.running ≠ true := by rw [not_running (.inl fatal)]; exact Bool.false_ne_true
  cases exec_inv h with
  | none => exact .inl rfl
  | latch v => exact .inr ⟨v, rfl⟩
  | worker k st r t hi en => exact absurd en.running stopped
  | sched ph t hi en => exact absurd en.running stopped
  | system t effect =>
    cases effect with
    | reset => exact absurd rfl reset
    | cfgFail n due | cfgPass due => rw [check rfl] at due; cases due

/-- Only SYS.RESET leaves the fatal state. -/
theorem fatal_kept {i : Instr} {s t : State} (fatal : s.fatal = true) (reset : i ≠ .sysReset) (h : exec i s = .next t) :
    t.fatal = true := by
  by_cases check : i = .sysCfgchk
  · subst check
    obtain rfl | effect := sysCfgchk_inv h
    · exact fatal
    cases effect with
    | cfgFail => rfl
    | cfgPass => exact (openSources_frame s).fatal.trans fatal
  · obtain rfl | ⟨v, rfl⟩ := fatal_still fatal reset (fun e => absurd e check) h
    · exact fatal
    · exact fatal

theorem step_fatal {s : State} (fatal : s.fatal = true) (check : s.chkPending = false) (rst : s.env.rst = false)
    (script : s.script = []) : step s = .next s := by
  simp [step, script, arbiter, rst, check, fatal]

/-- Settles O45: while fatal is set no agent runs, so that what is left is a latch, a check or a reset. -/
theorem fatalStopsEverything : Obligations.FatalStopsEverything := by
  refine ⟨fun i s t fatal reset check h => ?_, fun i k st s fatal hi hk => ?_, fun i ph s fatal hi => ?_,
    fun s => step_fatal, fun i s t fatal h clear => ?_, fun s _ rst => ⟨_, sysReset_asserted rst, rfl⟩⟩
  · obtain rfl | ⟨v, rfl⟩ := fatal_still fatal reset check h
    · exact ⟨⟨rfl, rfl, rfl, rfl, rfl, rfl, rfl, rfl, rfl⟩, rfl⟩
    · exact ⟨⟨rfl, rfl, rfl, rfl, rfl, rfl, rfl, rfl, rfl⟩, rfl⟩
  · exact worker_disabled hi (List.getElem?_eq_getElem hk) (.inl (not_running (.inl fatal)))
  · exact sched_disabled hi (.inl (not_running (.inl fatal)))
  · by_contra reset
    rw [fatal_kept fatal reset h] at clear
    cases clear

/-- Settles O46: of all effects only the failed check and the abort set `fatal`. -/
theorem fatalOnlyFromTwoCauses : Obligations.FatalOnlyFromTwoCauses := by
  intro i s t h fatal
  cases exec_inv h with
  | none => exact .inl fatal
  | latch => exact .inl fatal
  | worker k st r t hi en effect =>
    obtain ⟨-, -, -, -, same, -⟩ := RxWorker.rxEffect_onlyRx effect
    exact .inl (same.symm.trans fatal)
  | sched ph t hi en effect =>
    cases effect with
    | abort _ op ev full => exact .inr (.inr ⟨op, ev, full, rfl⟩)
    | wait | noEvent | take | idle | busy | queue | skip | drain | fail => exact .inl fatal
  | system t effect =>
    cases effect with
    | reset => cases fatal
    | cfgFail => exact .inr (.inl ⟨rfl, rfl⟩)
    | cfgPass => exact .inl ((openSources_frame s).fatal.symm.trans fatal)

/-- No operation of a worker is enabled in HALT. -/
theorem workerStateOf_ne_halt {i : Instr} {k : Nat} {st : RxSt} (hi : workerStateOf i = some (k, st)) : st ≠ .halt := by
  cases i <;> cases hi <;> decide

/-- No effect of the scheduler changes a dead channel. -/
theorem schEffect_dead {i : Instr} {s t : State} (h : SchEffect s i t) {c : Nat} {u : TxChan} (hu : s.tx[c]? = some u)
    (dead : u.alive = false) : t.tx[c]? = some u := by
  have other {d : Nat} {w w' : TxChan} (hw : s.tx[d]? = some w) (alive : w.alive = true) :
      (s.tx.set d w')[c]? = some u := by
    refine (List.getElem?_set_ne ?_).trans hu
    rintro rfl
    cases hw.symm.trans hu
    rw [dead] at alive
    cases alive
  cases h with
  | wait | noEvent | abort | take | idle | busy | skip => exact hu
  | queue d w q full found hw =>
    obtain ⟨w', hw', free, -⟩ := (TxScheduler.findIdx_free_iff _ _).1 found
    cases hw'.symm.trans hw
    exact other hw ((TxScheduler.isFree_iff w).1 free).1
  | drain w q due | fail _ w _ due => exact other due.chan due.alive

/-- Settles O47: an effect of a worker touches a worker that is not in HALT, one of the scheduler a live channel. -/
theorem stoppedChannelsStayStopped : Obligations.StoppedChannelsStayStopped := by
  refine ⟨fun i s t k r reset check h hr halted => ?_, fun i s t c u reset h hu dead => ?_⟩
  · cases exec_inv h with
    | none => exact hr
    | latch => exact hr
    | worker j st r' t hi en effect =>
      have ne : k ≠ j := by
        rintro rfl
        cases en.chan.symm.trans hr
        exact workerStateOf_ne_halt hi (en.state.symm.trans halted)
      obtain ⟨-, others, -⟩ := RxWorker.rxEffect_onlyRx effect
      exact (others k ne).trans hr
    | sched ph t hi en effect =>
      rw [(TxScheduler.schEffect_frame effect).1]
      exact hr
    | system t effect =>
      cases effect with
      | reset => exact absurd rfl reset
      | cfgFail n due | cfgPass due => rw [check] at due; cases due
  · cases exec_inv h with
    | none => exact hu
    | latch => exact hu
    | worker j st r' t hi en effect =>
      obtain ⟨-, -, same, -⟩ := RxWorker.rxEffect_onlyRx effect
      rw [same]
      exact hu
    | sched ph t hi en effect => exact schEffect_dead effect hu dead
    | system t effect =>
      cases effect with
      | reset => exact absurd rfl reset
      | cfgFail => exact hu
      | cfgPass => rw [(openSources_frame s).tx]; exact hu

/-! The environment (R265). -/

/-- An event of the environment only replaces what the ports show. -/
theorem applyEnv_inv {e : EnvEvent} {s t : State} (h : applyEnv e s = .next t) : ∃ e', t = s.setEnv e' := by
  cases e with
  | devPkt | devWithdraw | devwr | rst => cases h; exact ⟨_, rfl⟩
  | txReady | txAnswer | rxOffer | cfg =>
    rw [applyEnv] at h
    split at h <;> cases h
    exact ⟨_, rfl⟩
  | startup =>
    rw [applyEnv] at h
    split at h <;> cases h
    exact ⟨_, rfl⟩

theorem applyEnv_ne_fault (e : EnvEvent) (s : State) (f : Fault) : applyEnv e s ≠ .fault f := by
  cases e with
  | devPkt | devWithdraw | devwr | rst => rintro ⟨⟩
  | txReady | txAnswer | rxOffer | cfg | startup =>
    rw [applyEnv]
    split <;> rintro ⟨⟩

/-- Settles O49: each event is a replacement of what the ports show, behind its test. -/
theorem environmentOnlyMovesPorts : Obligations.EnvironmentOnlyMovesPorts := by
  refine ⟨fun e s t h => ?_, fun g s rst => ?_, fun a d x y s due rst => ?_⟩
  · obtain ⟨e', rfl⟩ := applyEnv_inv h
    rfl
  · exact if_neg (by simp [rst])
  · exact if_pos (by simp [State.checkDue, due, rst])

/-! The status outputs (R57). -/

/-- Settles O50: 14 bits hold every real count of the invariant, and the codes are those of the tables. -/
theorem statusOutputsShowState : Obligations.StatusOutputsShowState := by
  refine ⟨fun s => rfl, fun u small => ?_, rfl, rfl, rfl, rfl⟩
  rw [txStatus, BitVec.toNat_ofNat]
  exact Nat.mod_eq_of_lt (by omega)

/-! One step. -/

theorem step_op {s : State} {slot : List Byte} {rest : List Move} (script : s.script = .op slot :: rest) :
    step s = match fetchWord slot with
      | .ok i => exec i { s with script := rest }
      | .error e => .refused (.undecodable e) := by
  rw [step, script]
  rfl

theorem step_env {s : State} {e : EnvEvent} {rest : List Move} (script : s.script = .env e :: rest) :
    step s = applyEnv e { s with script := rest } := by
  rw [step, script]
  rfl

theorem step_arbiter {s : State} {turn : Nat} {i : Instr} (script : s.script = []) (named : arbiter s = some (turn, i)) :
    step s = exec i { s with turn := turn } := by
  rw [step, script]
  simp only [named]

theorem step_quiet {s : State} (script : s.script = []) (quiet : arbiter s = none) : step s = .next s := by
  rw [step, script]
  simp only [quiet]

/-- Settles O51: the five ways a step goes. -/
theorem stepRunsDecodedOperation : Obligations.StepRunsDecodedOperation :=
  ⟨fun s slot rest i script fetched => (step_op script).trans (by rw [fetched]),
    fun s slot rest e script failed => (step_op script).trans (by rw [failed]),
    fun s e rest script => step_env script, fun s turn i script named => step_arbiter script named,
    fun s script quiet => step_quiet script quiet⟩

/-! The arbiter (R266). -/

/-- The operation a worker names belongs to it and is enabled in its state. -/
theorem workerOp_state {s : State} {k : Nat} {i : Instr} (h : workerOp s k = some i) :
    ∃ r, s.rx[k]? = some r ∧ workerStateOf i = some (k, r.st) := by
  rw [workerOp] at h
  split at h
  · cases h
  next r hr =>
  refine ⟨r, hr, ?_⟩
  split at h
  next hst =>
    rw [hst]
    split at h
    · cases h
    split at h <;> cases h <;> rfl
  next hst => rw [hst]; cases h; rfl
  next hst => rw [hst]; cases h; rfl
  next hst =>
    rw [hst]
    split at h <;> cases h
    rfl
  next hst => rw [hst]; cases h; rfl
  next => cases h

/-- The operation the scheduler names is enabled in its phase. -/
theorem schedOp_phase {s : State} {i : Instr} (h : schedOp s = some i) : phaseOf i = some s.sch.ph := by
  rw [schedOp] at h
  split at h
  next hph =>
    rw [hph]
    split at h <;> cases h
    rfl
  next hph =>
    rw [hph]
    split at h
    · cases h; rfl
    split at h
    · cases h; rfl
    split at h <;> cases h
    rfl
  next hph => rw [hph]; cases h; rfl
  next hph =>
    rw [hph]
    split at h
    · split at h <;> cases h <;> rfl
    · cases h; rfl

/-- The operation an agent names, and the agent after it. -/
def NamedByAgent (s : State) (turn : Nat) (i : Instr) : Prop :=
  (∃ k st r, workerStateOf i = some (k, st) ∧ k < s.cfg.nrx ∧ s.rx[k]? = some r ∧ r.st = st ∧ turn = k + 1) ∨
    (phaseOf i = some s.sch.ph ∧ turn = s.cfg.nrx + 1)

theorem agentOp_named {s : State} {a : Nat} {i : Instr} (ha : a < s.cfg.nrx + 1) (h : agentOp s a = some i) :
    NamedByAgent s (a + 1) i := by
  rw [agentOp] at h
  split at h
  next worker =>
    obtain ⟨r, hr, hi⟩ := workerOp_state h
    exact .inl ⟨a, r.st, r, hi, worker, hr, rfl, rfl⟩
  next sched => exact .inr ⟨schedOp_phase h, by omega⟩

theorem pickFrom_named {s : State} {fuel a turn : Nat} {i : Instr} (h : pickFrom s fuel a = some (turn, i)) :
    NamedByAgent s turn i := by
  induction fuel generalizing a with
  | zero => cases h
  | succ n ih =>
    rw [pickFrom] at h
    split at h
    next j named =>
      cases h
      exact agentOp_named (Nat.mod_lt _ (Nat.succ_pos _)) named
    next => exact ih h

/-- Settles O52: without a reset and without a check the arbiter takes the operation of an agent. -/
theorem arbiterFollowsSequencingRegisters : Obligations.ArbiterFollowsSequencingRegisters := by
  intro s turn i h rst check
  rw [arbiter, if_neg (by simp [rst]), if_neg (by simp [check])] at h
  split at h
  · cases h
  next live => exact ⟨by simpa using live, pickFrom_named h⟩

/-! What a step is. -/

/-- A worker's or the scheduler's operation, or a pure function within its domain (R123). -/
def InDomain (i : Instr) : Prop := workerStateOf i = none → phaseOf i = none → i.wf = true

/-- `s` with another script and another turn. -/
def withMoves (s : State) (script : List Move) (turn : Nat) : State := { s with script := script, turn := turn }

theorem arbiter_inDomain {s : State} {turn : Nat} {i : Instr} (h : arbiter s = some (turn, i)) : InDomain i := by
  rw [arbiter] at h
  split at h
  · cases h; exact fun _ _ => rfl
  split at h
  · cases h; exact fun _ _ => rfl
  split at h
  · cases h
  obtain ⟨k, st, r, hi, -⟩ | ⟨hi, -⟩ := pickFrom_named h
  · intro none; rw [hi] at none; cases none
  · intro _ none; rw [hi] at none; cases none

/-- A step is one operation or one event of the environment, in the state that differs in script and turn alone, or nothing, or
the refusal of a word. -/
inductive StepIs (s : State) : Prop
  | quiet : step s = .next s → StepIs s
  | refused (e : DecodeError) : step s = .refused (.undecodable e) → StepIs s
  | env (e : EnvEvent) (script : List Move) (turn : Nat) : step s = applyEnv e (withMoves s script turn) → StepIs s
  | op (i : Instr) (script : List Move) (turn : Nat) : InDomain i → step s = exec i (withMoves s script turn) → StepIs s

theorem stepIs (s : State) : StepIs s := by
  match script : s.script with
  | .env e :: rest => exact .env e rest s.turn (step_env script)
  | .op slot :: rest =>
    have run := step_op script
    cases fetched : fetchWord slot with
    | ok i =>
      rw [fetched] at run
      exact .op i rest s.turn (fun _ _ => Layout.fetchWord_wf fetched) run
    | error e =>
      rw [fetched] at run
      exact .refused e run
  | [] =>
    match named : arbiter s with
    | some (turn, i) => exact .op i s.script turn (arbiter_inDomain named) (step_arbiter script named)
    | none => exact .quiet (step_quiet script named)

/-- Settles O48: no effect but the reset replaces the configuration. -/
theorem configurationConstantBetweenResets : Obligations.ConfigurationConstantBetweenResets := by
  intro s t h rst
  cases stepIs s with
  | quiet run => cases run.symm.trans h; rfl
  | refused e run => cases run.symm.trans h
  | env e script turn run =>
    obtain ⟨e', rfl⟩ := applyEnv_inv (run.symm.trans h)
    rfl
  | op i script turn _ run =>
    cases exec_inv (run.symm.trans h) with
    | none => rfl
    | latch => rfl
    | worker k st r t hi en effect =>
      obtain ⟨-, -, -, -, -, -, same, -⟩ := RxWorker.rxEffect_onlyRx effect
      exact same
    | sched ph t hi en effect => exact (TxScheduler.schEffect_frame effect).2.1
    | system t effect =>
      cases effect with
      | reset asserted => exact absurd (rst.symm.trans asserted) Bool.false_ne_true
      | cfgFail => rfl
      | cfgPass => exact (openSources_frame _).cfg

end Sys2Proof.Proofs.SystemOps

/-! The invariant (10_state.md R62). It holds after reset; every effect keeps it, part by part: a receive channel's window, a
transmit channel's queue, the scheduler. -/

namespace Sys2Proof.Proofs.Invariant

open Sys2Proof Sys2Proof.Machine Sys2Proof.Proofs.Effects Sys2Proof.Proofs.SystemOps

/-! Zeros beyond the chunk (R196 b, U10). -/

/-- A chunk written over the first of `m` zeros leaves the others. -/
theorem zeros_after_write {α : Type} {xs v ys : List α} {z : α} {p m n : Nat} (zeros : xs.drop p = List.replicate m z)
    (hv : v.length = n) (write : memWrite xs p v = some ys) : ys.drop (p + n) = List.replicate (m - n) z := by
  obtain ⟨inside, rfl⟩ := memWrite_eq_some.1 write
  have front : (xs.take p ++ v).length = p + n := by rw [List.length_append, List.length_take]; omega
  rw [List.drop_left' front, hv, ← List.drop_drop, zeros, List.drop_replicate]

/-- A shift by the chunk's length brings back the zeros it had overwritten. -/
theorem zeros_after_shift {α : Type} {xs ys : List α} {z : α} {p m n : Nat}
    (zeros : xs.drop (p + n) = List.replicate (m - n) z) (hn : n ≤ m) (len : xs.length = p + m)
    (shift : shiftIn xs (List.replicate n z) = some ys) : ys.drop p = List.replicate m z := by
  obtain ⟨-, rfl⟩ := shiftIn_eq_some.1 shift
  rw [List.length_replicate, List.drop_append_of_le_length (by rw [List.length_drop]; omega), List.drop_drop,
    Nat.add_comm n p, zeros, List.replicate_append_replicate, Nat.sub_add_cancel hn]

/-! A receive channel. -/

section
variable {g : Cfg} {k : Nat} {r : RxChan}

/-- A worker that is at neither end of its iteration holds a chunk. -/
theorem chunk_held (inv : RxInv g k r) (noFill : r.st ≠ .fill) (noHalt : r.st ≠ .halt) : 1 ≤ r.n :=
  Nat.one_le_iff_ne_zero.2 fun zero => (inv.n_zero.1 zero).elim noFill noHalt

theorem n_ne_zero_iff {n : Nat} {st : RxSt} (held : 1 ≤ n) (noFill : st ≠ .fill) (noHalt : st ≠ .halt) :
    n = 0 ↔ st = .fill ∨ st = .halt :=
  ⟨fun zero => by omega, fun h => (h.elim noFill noHalt).elim⟩

theorem running_codes {c : Cause} {st : RxSt} (none : c = .none) (noHalt : st ≠ .halt) :
    st = .halt ↔ c = .rxEos ∨ c = .rxOpen :=
  ⟨fun h => absurd h noHalt, fun h => by subst none; exact h.elim (fun e => nomatch e) (fun e => nomatch e)⟩

theorem resetRx_inv (g : Cfg) (k : Nat) : RxInv g k (resetRx g k) where
  wr_eq := rfl
  n_zero := ⟨fun _ => .inl rfl, fun _ => rfl⟩
  n_le := Nat.zero_le _
  cand_range h := by rcases h with h | h | h <;> cases h
  bits_zero := by simp [resetRx, Cfg.wRx, List.drop_replicate]
  sd_zero := by simp [resetRx, Cfg.wRx, List.drop_replicate]
  lens_le := ⟨Nat.zero_le _, Nat.zero_le _⟩
  verdict_eq h := by rcases h with h | h <;> cases h
  verdict_no _ _ := rfl
  halted := running_codes rfl (by rintro ⟨⟩)
  no_code _ := rfl

theorem filledRx_inv (inv : RxInv g k r) (hst : r.st = .fill) {c : Chunk} (ok : chunkOk g k c = true) {bits : Bits}
    {sd : List Soft} (writeBits : memWrite r.bits base c.cbits = some bits)
    (writeSd : memWrite r.sd base c.csd = some sd) : RxInv g k (filledRx r c.n bits sd) := by
  obtain ⟨pos, fits, hbits, hsd, -⟩ := (RxWorker.chunkOk_iff g k c).1 ok
  have empty : r.n = 0 := inv.n_zero.2 (.inl hst)
  have zeroBits := inv.bits_zero
  have zeroSd := inv.sd_zero
  rw [empty, Nat.add_zero, Nat.sub_zero] at zeroBits zeroSd
  exact {
    wr_eq := rfl
    n_zero := n_ne_zero_iff pos (by rintro ⟨⟩) (by rintro ⟨⟩)
    n_le := fits
    cand_range := fun h => by rcases h with h | h | h <;> cases h
    bits_zero := zeros_after_write zeroBits hbits writeBits
    sd_zero := zeros_after_write zeroSd hsd writeSd
    lens_le := inv.lens_le
    verdict_eq := fun h => by rcases h with h | h <;> cases h
    verdict_no := fun _ _ => inv.verdict_no (by simp [hst]) (by simp [hst])
    halted := running_codes (inv.no_code (by simp [hst])) (by rintro ⟨⟩)
    no_code := fun _ => inv.no_code (by simp [hst]) }

/-- The search stays among the offsets it tries (R192). -/
theorem uwSearch_range (g : Cfg) (sd : List Soft) {n : Nat} (pos : 1 ≤ n) :
    base - 47 ≤ (uwSearch g sd searchLo (searchHi n)).1 ∧ (uwSearch g sd searchLo (searchHi n)).1 + 48 ≤ base + n := by
  obtain ⟨low, high, -⟩ := scanMax_leastMax (uwCorr g sd) searchLo (searchHi n - searchLo)
  have lo : searchLo = 12895 := rfl
  have hi : searchHi n = 12942 + n - 48 := rfl
  rw [← uwSearch] at low high
  show 12895 ≤ _ ∧ _ + 48 ≤ 12942 + n
  omega

/-- Between FILL and SHIFT the window stays, and a channel keeps the invariant if its candidate and its verdict are right. -/
theorem midway_inv (inv : RxInv g k r) (busy : r.st ≠ .fill ∧ r.st ≠ .halt) {r' : RxChan}
    (window : r'.bits = r.bits ∧ r'.sd = r.sd ∧ r'.wr = r.wr ∧ r'.n = r.n ∧ r'.haltCode = r.haltCode)
    (busy' : r'.st ≠ .fill ∧ r'.st ≠ .halt) (cand : base - 47 ≤ r'.cand ∧ r'.cand + 48 ≤ base + r.n)
    (lens : r'.lenA ≤ mtu ∧ r'.lenB ≤ mtu)
    (verdict : if r'.st = .extract ∨ r'.st = .shift then r'.verdict = verdictOf r'.lenA r'.lenB else r'.verdict = .none) :
    RxInv g k r' := by
  obtain ⟨bits, sd, wr, n, code⟩ := window
  have noCode := code.trans (inv.no_code busy.2)
  exact {
    wr_eq := by rw [wr, n]; exact inv.wr_eq
    n_zero := n_ne_zero_iff (n ▸ chunk_held inv busy.1 busy.2) busy'.1 busy'.2
    n_le := n ▸ inv.n_le
    cand_range := fun _ => n ▸ cand
    bits_zero := by rw [bits, n]; exact inv.bits_zero
    sd_zero := by rw [sd, n]; exact inv.sd_zero
    lens_le := lens
    verdict_eq := fun h => by rwa [if_pos h] at verdict
    verdict_no := fun h h' => by rwa [if_neg (not_or.2 ⟨h, h'⟩)] at verdict
    halted := running_codes noCode busy'.2
    no_code := fun _ => noCode }

/-- The worker's state once the search has answered `found`. -/
def foundRx (r : RxChan) (found : Nat × Int) : RxChan := { r with cand := found.1, candScore := found.2, st := .validate }

theorem searchedRx_eq (g : Cfg) (r : RxChan) : searchedRx g r = foundRx r (uwSearch g r.sd searchLo (searchHi r.n)) := rfl

theorem foundRx_inv (inv : RxInv g k r) (hst : r.st = .search) {found : Nat × Int}
    (range : base - 47 ≤ found.1 ∧ found.1 + 48 ≤ base + r.n) : RxInv g k (foundRx r found) := by
  have none : r.verdict = .none := inv.verdict_no (by simp [hst]) (by simp [hst])
  have st : (foundRx r found).st = .validate := rfl
  refine midway_inv inv (by simp [hst]) ⟨rfl, rfl, rfl, rfl, rfl⟩ (by simp [st]) range inv.lens_le ?_
  rw [if_neg (by simp [st])]
  exact none

theorem searchedRx_inv (inv : RxInv g k r) (hst : r.st = .search) : RxInv g k (searchedRx g r) := by
  rw [searchedRx_eq]
  exact foundRx_inv inv hst (uwSearch_range g r.sd (chunk_held inv (by simp [hst]) (by simp [hst])))

theorem validatedRx_inv (inv : RxInv g k r) (hst : r.st = .validate) (foot : List Soft) :
    RxInv g k (validatedRx g r foot) := by
  have st : (validatedRx g r foot).st = .extract := rfl
  refine midway_inv inv (by simp [hst]) ⟨rfl, rfl, rfl, rfl, rfl⟩ (by simp [st]) (inv.cand_range (.inl hst))
    ⟨LengthOps.lenDec_le_mtu g _ _, LengthOps.lenDec_le_mtu g _ _⟩ ?_
  rw [if_pos (.inl st)]
  rfl

theorem extractedRx_inv (inv : RxInv g k r) (hst : r.st = .extract) : RxInv g k (extractedRx r) := by
  have st : (extractedRx r).st = .shift := rfl
  refine midway_inv inv (by simp [hst]) ⟨rfl, rfl, rfl, rfl, rfl⟩ (by simp [st]) (inv.cand_range (.inr (.inl hst)))
    inv.lens_le ?_
  rw [if_pos (.inr st)]
  exact inv.verdict_eq (.inl hst)

theorem shiftedRx_inv (inv : RxInv g k r) (shape : RxShape g k r) (hst : r.st = .shift) {bits : Bits} {sd : List Soft}
    (shiftBits : shiftIn r.bits (List.replicate r.n false) = some bits)
    (shiftSd : shiftIn r.sd (List.replicate r.n 0) = some sd) : RxInv g k (shiftedRx r bits sd) := by
  obtain ⟨lenBits, lenSd, -⟩ := shape
  exact {
    wr_eq := rfl
    n_zero := ⟨fun _ => .inl rfl, fun _ => rfl⟩
    n_le := Nat.zero_le _
    cand_range := fun h => by rcases h with h | h | h <;> cases h
    bits_zero := zeros_after_shift inv.bits_zero inv.n_le lenBits shiftBits
    sd_zero := zeros_after_shift inv.sd_zero inv.n_le lenSd shiftSd
    lens_le := inv.lens_le
    verdict_eq := fun h => by rcases h with h | h <;> cases h
    verdict_no := fun _ _ => rfl
    halted := running_codes (inv.no_code (by simp [hst])) (by rintro ⟨⟩)
    no_code := fun _ => inv.no_code (by simp [hst]) }

theorem haltedRx_inv (inv : RxInv g k r) (hst : r.st = .fill) {c : Cause} (hc : c = .rxEos ∨ c = .rxOpen) :
    RxInv g k (haltedRx r c) :=
  { wr_eq := inv.wr_eq
    n_zero := ⟨fun _ => .inr rfl, fun _ => inv.n_zero.2 (.inl hst)⟩
    n_le := inv.n_le
    cand_range := fun h => by rcases h with h | h | h <;> cases h
    bits_zero := inv.bits_zero
    sd_zero := inv.sd_zero
    lens_le := inv.lens_le
    verdict_eq := fun h => by rcases h with h | h <;> cases h
    verdict_no := fun _ _ => inv.verdict_no (by simp [hst]) (by simp [hst])
    halted := ⟨fun _ => hc, fun _ => rfl⟩
    no_code := fun h => absurd rfl h }

end

/-- The channel an effect leaves is in shape and meets the invariant. -/
theorem rxEffect_channel {k : Nat} {s t : State} {r : RxChan} {i : Instr} {st : RxSt} (hi : workerStateOf i = some (k, st))
    (hst : r.st = st) (shape : RxShape s.cfg k r) (inv : RxInv s.cfg k r) (h : RxEffect k s r i t) :
    ∃ r', t.rx = s.rx.set k r' ∧ RxShape s.cfg k r' ∧ RxInv s.cfg k r' := by
  obtain ⟨lenBits, lenSd, softs⟩ := shape
  cases h with
  | fill c bits sd _ _ ok writeBits writeSd =>
    cases hi
    obtain ⟨-, -, -, -, legal⟩ := (RxWorker.chunkOk_iff _ _ _).1 ok
    exact ⟨_, rfl, ⟨memWrite_keeps_length writeBits lenBits, memWrite_keeps_length writeSd lenSd,
      memWrite_keeps_softOk writeSd softs legal⟩, filledRx_inv inv hst ok writeBits writeSd⟩
  | search => cases hi; exact ⟨_, rfl, ⟨lenBits, lenSd, softs⟩, searchedRx_inv inv hst⟩
  | validate foot => cases hi; exact ⟨_, rfl, ⟨lenBits, lenSd, softs⟩, validatedRx_inv inv hst foot⟩
  | deliver | reject | drop => cases hi; exact ⟨_, rfl, ⟨lenBits, lenSd, softs⟩, extractedRx_inv inv hst⟩
  | shift bits sd shiftBits shiftSd =>
    cases hi
    have zeros : ∀ x ∈ List.replicate r.n (0 : Soft), s.cfg.softOk x = true := fun x hx => by
      rw [(List.mem_replicate.1 hx).2]; exact softOk_zero s.cfg
    exact ⟨_, rfl, ⟨shiftIn_keeps_length shiftBits lenBits, shiftIn_keeps_length shiftSd lenSd,
      shiftIn_keeps_softOk shiftSd softs zeros⟩, shiftedRx_inv inv ⟨lenBits, lenSd, softs⟩ hst shiftBits shiftSd⟩
  | halt => cases hi; exact ⟨_, rfl, ⟨lenBits, lenSd, softs⟩, haltedRx_inv inv hst (.inl rfl)⟩

/-! A transmit channel. -/

section
variable {g : Cfg} {c : Nat} {u : TxChan}

theorem resetTx_inv (g : Cfg) (c : Nat) : TxInv g c (resetTx g c) where
  real_le := Nat.zero_le _
  filler _ _ _ hi := FrameOps.filler_getElem? hi

/-- Real data written behind real data leaves the filler beyond it. -/
theorem queued_inv (inv : TxInv g c u) {f q : Bits} (write : memWrite u.q u.real f = some q)
    (fits : u.real + f.length ≤ frameMaxBits) : TxInv g c { u with q := q, real := u.real + f.length } where
  real_le := fits
  filler even i beyond hi := by
    have beyond : u.real + f.length ≤ i := beyond
    rw [memWrite_getElem? write, if_neg (by omega)]
    exact inv.filler even i (by omega) hi

/-- An even quantum keeps the filler in phase, both what moves down and what comes in. -/
theorem drainedTx_inv (inv : TxInv g c u) (len : u.q.length = g.wTx c) {q : Bits}
    (shifted : shiftIn u.q (filler (g.quantum c)) = some q) : TxInv g c (drainedTx u (g.quantum c) q) where
  real_le := (Nat.sub_le _ _).trans inv.real_le
  filler even i beyond hi := by
    have beyond : u.real - g.quantum c ≤ i := beyond
    have size : (filler (g.quantum c)).length = g.quantum c := fillerBits_length _
    have room : g.wTx c = 12942 + g.quantum c := rfl
    show q[i]? = _
    rw [shiftIn_getElem? shifted, size]
    split
    · rw [inv.filler even (i + g.quantum c) (by omega) (by omega)]
      rw [show (i + g.quantum c) % 2 = i % 2 by omega]
    · rw [FrameOps.filler_getElem? (by omega)]
      rw [show (i - (u.q.length - g.quantum c)) % 2 = i % 2 by omega]

theorem dead_inv (inv : TxInv g c u) : TxInv g c { u with alive := false } :=
  ⟨inv.real_le, inv.filler⟩

end

/-- The longest frame fits behind at most one unique word of real data (R212). -/
theorem slotFrame_fits {s : State} {u : TxChan} (free : u.isFree = true) (slot : s.sch.pendLen ≤ s.sch.pendData.length)
    (legal : s.sch.pendLen ≤ mtu) : u.real + (slotFrame s u).length ≤ 12942 := by
  obtain ⟨-, real⟩ := (TxScheduler.isFree_iff u).1 free
  have size := TxScheduler.slotFrame_length (u := u) slot
  have legal : s.sch.pendLen ≤ 1600 := legal
  split at size <;> omega

/-! The invariant as a whole. -/

theorem inv_parts {s : State} (inv : StateInv s) : s.rx.length = s.cfg.nrx ∧ s.tx.length = s.cfg.ntx ∧
    (∀ k r, s.rx[k]? = some r → RxShape s.cfg k r) ∧ (∀ c u, s.tx[c]? = some u → u.q.length = s.cfg.wTx c) ∧
    s.sch.pendData.length = mtu := (memory_wf_iff s).1 inv.mem

/-- The invariant says nothing of the environment, the log and the model's own fields. -/
theorem inv_congr {s t : State} (inv : StateInv s) (rx : t.rx = s.rx) (tx : t.tx = s.tx) (sch : t.sch = s.sch)
    (cfg : t.cfg = s.cfg) (fatal : t.fatal = s.fatal) (code : t.fatalCode = s.fatalCode)
    (check : t.chkPending = s.chkPending) : StateInv t where
  mem := (memory_wf_congr rx tx (by rw [sch]) cfg).trans inv.mem
  rx := by rw [rx, cfg]; exact inv.rx
  tx := by rw [tx, cfg]; exact inv.tx
  sch := by rw [sch, cfg]; exact inv.sch
  fatal := by rw [fatal, code]; exact inv.fatal
  check := by rw [check, rx]; exact inv.check

/-- A replaced list entry is the new one, or the old one at another index. -/
theorem getElem?_set_cases {α : Type} {xs : List α} {k j : Nat} {x y : α} (h : (xs.set k x)[j]? = some y) :
    (j = k ∧ y = x) ∨ xs[j]? = some y := by
  rw [List.getElem?_set] at h
  split at h
  · next same =>
    split at h <;> cases h
    exact .inl ⟨same.symm, rfl⟩
  · exact .inr h

/-- An operation of a worker keeps the invariant. -/
theorem rxEffect_keeps {k : Nat} {s t : State} {r : RxChan} {i : Instr} {st : RxSt} (inv : StateInv s)
    (hi : workerStateOf i = some (k, st)) (en : RxEnabled s k r st) (h : RxEffect k s r i t) : StateInv t := by
  obtain ⟨-, -, shapes, -, -⟩ := inv_parts inv
  obtain ⟨r', rx, shape, chan⟩ := rxEffect_channel hi en.state (shapes k r en.chan) (inv.rx k r en.chan) h
  obtain ⟨-, -, tx, sch, fatal, code, cfg, check, -⟩ := RxWorker.rxEffect_onlyRx h
  exact {
    mem := (memory_wf_congr (s := s.setRx k r') rx tx (by rw [sch]; rfl) cfg).trans (setRx_keeps_wf inv.mem shape)
    rx := fun j x hx => by
      rw [cfg]
      rw [rx] at hx
      obtain ⟨rfl, rfl⟩ | old := getElem?_set_cases hx
      · exact chan
      · exact inv.rx j x old
    tx := by rw [tx, cfg]; exact inv.tx
    sch := by rw [sch, cfg]; exact inv.sch
    fatal := by rw [fatal, code]; exact inv.fatal
    check := fun pending => by rw [check, ((running_iff s).1 en.running).2] at pending; cases pending }

/-- A new scheduler, beside transmit channels that meet the invariant. -/
theorem inv_of_sched {s t : State} (inv : StateInv s) (rx : t.rx = s.rx) (cfg : t.cfg = s.cfg)
    (check : t.chkPending = s.chkPending) (fatal : t.fatal = s.fatal) (code : t.fatalCode = s.fatalCode)
    (count : t.tx.length = s.tx.length)
    (tx : ∀ c u, t.tx[c]? = some u → u.q.length = s.cfg.wTx c ∧ TxInv s.cfg c u) (slot : t.sch.pendData.length = mtu)
    (sch : SchInv s.cfg t.sch) : StateInv t := by
  obtain ⟨rxCount, txCount, shapes, -, -⟩ := inv_parts inv
  exact {
    mem := (memory_wf_iff t).2 (by
      rw [rx, cfg]
      exact ⟨rxCount, count.trans txCount, shapes, fun c u hu => (tx c u hu).1, slot⟩)
    rx := by rw [rx, cfg]; exact inv.rx
    tx := fun c u hu => by rw [cfg]; exact (tx c u hu).2
    sch := by rw [cfg]; exact sch
    fatal := by rw [fatal, code]; exact inv.fatal
    check := by rw [check, rx]; exact inv.check }

theorem advancedSch_inv {s : State} (inv : SchInv s.cfg s.sch) (draining : s.sch.ph = .drain) :
    SchInv s.cfg (advancedSch s) := by
  have inside := inv.ci_drain draining
  refine ⟨inv.ev_length, inv.pend_le, inside, fun h => ?_, fun h => ?_⟩
  · have h : (if s.sch.ci + 1 = s.cfg.ntx then Phase.wait else .drain) = .drain := h
    show s.sch.ci + 1 < s.cfg.ntx
    split at h
    · cases h
    · omega
  · have h : (if s.sch.ci + 1 = s.cfg.ntx then Phase.wait else .drain) = .devrd := h
    split at h <;> cases h

theorem assignedSch_inv {s : State} (inv : SchInv s.cfg s.sch) (valid : Bool) : SchInv s.cfg (assignedSch s valid) := by
  refine ⟨inv.ev_length, inv.pend_le, Nat.zero_le _, fun h => ?_, fun h => ?_⟩
  · have h : (if s.cfg.ntx = 0 then Phase.wait else .drain) = .drain := h
    show 0 < s.cfg.ntx
    split at h
    · cases h
    · omega
  · have h : (if s.cfg.ntx = 0 then Phase.wait else .drain) = .devrd := h
    split at h <;> cases h

/-- An operation of the scheduler keeps the invariant; the abort cannot happen (R62 f). -/
theorem schEffect_keeps {s t : State} {i : Instr} {ph : Phase} (inv : StateInv s) (hi : phaseOf i = some ph)
    (en : SchEnabled s ph) (h : SchEffect s i t) : StateInv t := by
  obtain ⟨-, txCount, -, queues, slot⟩ := inv_parts inv
  have old (c : Nat) (u : TxChan) (hu : s.tx[c]? = some u) : u.q.length = s.cfg.wTx c ∧ TxInv s.cfg c u :=
    ⟨queues c u hu, inv.tx c u hu⟩
  have replaced {c : Nat} {u' : TxChan} (len : u'.q.length = s.cfg.wTx c) (hu' : TxInv s.cfg c u') (d : Nat) (u : TxChan)
      (hu : (s.tx.set c u')[d]? = some u) : u.q.length = s.cfg.wTx d ∧ TxInv s.cfg d u := by
    obtain ⟨rfl, rfl⟩ | hu := getElem?_set_cases hu
    · exact ⟨len, hu'⟩
    · exact old d u hu
  cases h with
  | wait =>
    refine inv_of_sched inv rfl rfl rfl rfl rfl rfl old slot
      ⟨(TxScheduler.readyFlags_length _ _).trans txCount, inv.sch.pend_le, inv.sch.ci_le, ?_, fun _ event => ?_⟩
    · rintro ⟨⟩
    · have event : (s.sch.watchDev && s.env.devAvail) = true := event
      show s.sch.pendValid = false
      simpa [Sched.watchDev] using (Bool.and_eq_true_iff.1 event).1
  | noEvent =>
    exact inv_of_sched inv rfl rfl rfl rfl rfl rfl old slot
      ⟨inv.sch.ev_length, inv.sch.pend_le, inv.sch.ci_le, by rintro ⟨⟩, by rintro ⟨⟩⟩
  | abort _ op ev full =>
    have devrd : s.sch.ph = .devrd := by
      rcases op with rfl | rfl <;> cases hi <;> exact en.phase
    rw [inv.sch.ev_dev devrd ev] at full
    cases full
  | take p rest data ev empty offered legal write =>
    exact inv_of_sched inv rfl rfl rfl rfl rfl rfl old (memWrite_keeps_length write slot)
      ⟨inv.sch.ev_length, legal, inv.sch.ci_le, by rintro ⟨⟩, by rintro ⟨⟩⟩
  | idle => exact inv_of_sched inv rfl rfl rfl rfl rfl rfl old slot (assignedSch_inv inv.sch false)
  | busy => exact inv_of_sched inv rfl rfl rfl rfl rfl rfl old slot (assignedSch_inv inv.sch true)
  | queue c u q full found hu inside write =>
    obtain ⟨u', hu', free, -⟩ := (TxScheduler.findIdx_free_iff _ _).1 found
    cases hu'.symm.trans hu
    have chan := queued_inv (inv.tx c u hu) write (slotFrame_fits free inside inv.sch.pend_le)
    exact inv_of_sched inv rfl rfl rfl rfl rfl List.length_set
      (replaced (memWrite_keeps_length write (queues c u hu)) chan) slot (assignedSch_inv inv.sch false)
  | skip =>
    cases hi
    exact inv_of_sched inv rfl rfl rfl rfl rfl rfl old slot (advancedSch_inv inv.sch en.phase)
  | drain u q due answer shifted =>
    cases hi
    have chan := drainedTx_inv (inv.tx _ u due.chan) (queues _ u due.chan) shifted
    exact inv_of_sched inv rfl rfl rfl rfl rfl List.length_set
      (replaced (shiftIn_keeps_length shifted (queues _ u due.chan)) chan) slot (advancedSch_inv inv.sch en.phase)
  | fail _ u op due =>
    have draining : s.sch.ph = .drain := by
      rcases op with rfl | rfl <;> cases hi <;> exact en.phase
    exact inv_of_sched inv rfl rfl rfl rfl rfl List.length_set
      (replaced (queues _ u due.chan) (dead_inv (inv.tx _ u due.chan))) slot (advancedSch_inv inv.sch draining)

/-! Reset and the check. -/

theorem resetSched_inv (g : Cfg) (pend : List Byte) : SchInv g (resetSched g pend) :=
  ⟨List.length_replicate, Nat.zero_le _, Nat.zero_le _, by rintro ⟨⟩, by rintro ⟨⟩⟩

/-- The reset channels of a list, one per index. -/
theorem getElem?_map_range {α : Type} {f : Nat → α} {n k : Nat} {x : α} (h : ((List.range n).map f)[k]? = some x) :
    x = f k := by
  rw [List.getElem?_map, Option.map_eq_some_iff] at h
  obtain ⟨j, hj, rfl⟩ := h
  obtain ⟨hk, rfl⟩ := List.getElem?_eq_some_iff.1 hj
  rw [List.getElem_range]

/-- A state with the elements of the reset table meets the invariant, whatever its slot's bytes are. -/
theorem inv_of_reset {t : State} {pend : List Byte} (size : pend.length = mtu)
    (rx : t.rx = (List.range t.cfg.nrx).map (resetRx t.cfg)) (tx : t.tx = (List.range t.cfg.ntx).map (resetTx t.cfg))
    (sch : t.sch = resetSched t.cfg pend) (fatal : t.fatal = false) (code : t.fatalCode = .none) : StateInv t where
  mem := (memory_wf_congr (s := resetBlock t.cfg pend t) rx tx (by rw [sch]; rfl) rfl).trans (resetBlock_wf _ _ _ size)
  rx k r hr := by
    rw [rx] at hr
    rw [getElem?_map_range hr]
    exact resetRx_inv t.cfg k
  tx c u hu := by
    rw [tx] at hu
    rw [getElem?_map_range hu]
    exact resetTx_inv t.cfg c
  sch := by rw [sch]; exact resetSched_inv t.cfg pend
  fatal := by rw [fatal, code]; rfl
  check _ r hr := by
    rw [rx] at hr
    obtain ⟨k, -, rfl⟩ := List.mem_map.1 hr
    rfl

theorem boot_inv (g : Cfg) (e : Env) : StateInv (State.boot g e) :=
  inv_of_reset (pend := resetPend) List.length_replicate rfl rfl rfl rfl rfl

/-- Settles O57: every element stands at its value of the reset table. -/
theorem resetMeetsInvariant : Obligations.ResetMeetsInvariant := ⟨boot_inv, boot_inv testCfg (quietEnv testCfg)⟩

/-- Opening the sources keeps the invariant, since every worker stands at FILL. -/
theorem openSources_inv {s : State} (inv : StateInv s) (due : s.chkPending = true) :
    StateInv (openSources { s with chkPending := false }) := by
  have frame := openSources_frame s
  have chans (k : Nat) (r : RxChan) (hr : (openSources { s with chkPending := false }).rx[k]? = some r) :
      RxShape s.cfg k r ∧ RxInv s.cfg k r := by
    obtain ⟨-, -, shapes, -, -⟩ := inv_parts inv
    have hr := (openFirst_rx s.cfg.nrx { s with chkPending := false } k).symm.trans hr
    obtain ⟨r, old, rfl⟩ := Option.map_eq_some_iff.1 hr
    have old : s.rx[k]? = some r := old
    have shape := shapes k r old
    rw [openedRx]
    split
    · exact ⟨shape, haltedRx_inv (inv.rx k r old) (inv.check due r (List.mem_of_getElem? old)) (.inr rfl)⟩
    · exact ⟨shape, inv.rx k r old⟩
  have none (j : Nat) : (openSources { s with chkPending := false }).rx[j]? = none ↔ s.rx[j]? = none := by
    rw [openSources, ← openFirst, openFirst_rx, Option.map_eq_none_iff]
  have count : (openSources { s with chkPending := false }).rx.length = s.rx.length := by
    refine Nat.le_antisymm ?_ ?_
    · exact List.getElem?_eq_none_iff.1 ((none _).2 (List.getElem?_eq_none (le_refl _)))
    · exact List.getElem?_eq_none_iff.1 ((none _).1 (List.getElem?_eq_none (le_refl _)))
  obtain ⟨rxCount, txCount, -, queues, slot⟩ := inv_parts inv
  exact {
    mem := (memory_wf_iff _).2 (by
      rw [frame.cfg, frame.tx, frame.sch]
      exact ⟨count.trans rxCount, txCount, fun k r hr => (chans k r hr).1, queues, slot⟩)
    rx := fun k r hr => by rw [frame.cfg]; exact (chans k r hr).2
    tx := by rw [frame.tx, frame.cfg]; exact inv.tx
    sch := by rw [frame.sch, frame.cfg]; exact inv.sch
    fatal := by rw [frame.fatal, frame.fatalCode]; exact inv.fatal
    check := fun pending => by rw [frame.chkPending] at pending; cases pending }

theorem sysEffect_keeps {s t : State} {i : Instr} (inv : StateInv s) (h : SysEffect s i t) : StateInv t := by
  cases h with
  | reset => exact inv_of_reset (pend := freePend s.freeCtr) (by simp [freePend]) rfl rfl rfl rfl rfl
  | cfgFail => exact ⟨inv.mem, inv.rx, inv.tx, inv.sch, rfl, by rintro ⟨⟩⟩
  | cfgPass due => exact openSources_inv inv due

/-! Every step. -/

theorem exec_keeps {i : Instr} {s t : State} (inv : StateInv s) (h : exec i s = .next t) : StateInv t := by
  cases exec_inv h with
  | none => exact inv
  | latch => exact inv_congr inv rfl rfl rfl rfl rfl rfl rfl
  | worker k st r t hi en effect => exact rxEffect_keeps inv hi en effect
  | sched ph t hi en effect => exact schEffect_keeps inv hi en effect
  | system t effect => exact sysEffect_keeps inv effect

theorem withMoves_inv {s : State} (inv : StateInv s) (script : List Move) (turn : Nat) :
    StateInv (withMoves s script turn) := inv_congr inv rfl rfl rfl rfl rfl rfl rfl

/-- Settles O58: a step is an operation or an event of the environment, and both keep the invariant. -/
theorem stepKeepsInvariant : Obligations.StepKeepsInvariant := by
  intro s t inv h
  cases stepIs s with
  | quiet run => cases run.symm.trans h; exact inv
  | refused e run => cases run.symm.trans h
  | env e script turn run =>
    obtain ⟨e', rfl⟩ := applyEnv_inv (run.symm.trans h)
    exact inv_congr inv rfl rfl rfl rfl rfl rfl rfl
  | op i script turn _ run => exact exec_keeps (withMoves_inv inv script turn) (run.symm.trans h)

end Sys2Proof.Proofs.Invariant

/-! What follows from the invariant: no operation reaches outside its buffer (R81), what crosses the ports has the sizes of its
contract (R258, R259), and where the arbiter names nothing every agent waits (R289). -/

namespace Sys2Proof.Proofs.Safety

open Sys2Proof Sys2Proof.Machine Sys2Proof.Proofs.Effects Sys2Proof.Proofs.SystemOps Sys2Proof.Proofs.Invariant

/-! No fault inside a buffer. -/

section
variable {α : Type} {sp : Space} {xs v tail : List α} {pos n : Nat} {go : List α → Out} {f : Fault}

theorem readOr_ne_fault (inside : pos + n ≤ xs.length) (next : ∀ v, go v ≠ .fault f) : readOr sp xs pos n go ≠ .fault f := by
  rw [FrameDecode.readOr_inside sp inside]
  exact next _

theorem writeOr_ne_fault (inside : pos + v.length ≤ xs.length) (next : ∀ ys, go ys ≠ .fault f) :
    writeOr sp xs pos v go ≠ .fault f := by
  rw [writeOr_inside sp (memWrite_inside inside)]
  exact next _

theorem shiftOr_ne_fault (inside : tail.length ≤ xs.length) (next : ∀ ys, go ys ≠ .fault f) :
    shiftOr sp xs tail go ≠ .fault f := by
  rw [shiftOr_inside sp (shiftIn_inside inside)]
  exact next _

end

theorem next_ne_fault (t : State) (f : Fault) : (.next t : Out) ≠ .fault f := by rintro ⟨⟩

theorem refused_ne_fault (r : Refusal) (f : Fault) : (.refused r : Out) ≠ .fault f := by rintro ⟨⟩

theorem ite_ne_fault {c : Prop} [Decidable c] {a b : Out} {f : Fault} (ha : c → a ≠ .fault f) (hb : ¬ c → b ≠ .fault f) :
    (if c then a else b) ≠ .fault f := by
  split
  · next h => exact ha h
  · next h => exact hb h

/-! The operations of a worker. -/

section
variable {g : Cfg} {k : Nat} {r : RxChan}

/-- The window holds BASE positions and a chunk of the largest size. -/
theorem window_room (shape : RxShape g k r) (inv : RxInv g k r) :
    r.bits.length = 12942 + g.chunkMax k ∧ r.sd.length = 12942 + g.chunkMax k ∧ r.n ≤ g.chunkMax k :=
  ⟨shape.1, shape.2.1, inv.n_le⟩

/-- A candidate stands behind the longest payload and its footer, and ends in the window (R62 b, R179). -/
theorem candidate_room (shape : RxShape g k r) (inv : RxInv g k r) (hst : r.st = .validate ∨ r.st = .extract ∨ r.st = .shift) :
    46 + 8 * 1600 ≤ r.cand ∧ r.cand ≤ r.sd.length ∧ r.cand ≤ r.bits.length := by
  obtain ⟨lenBits, lenSd, small⟩ := window_room shape inv
  obtain ⟨low, high⟩ := inv.cand_range hst
  have low : 12895 ≤ r.cand := low
  have high : r.cand + 48 ≤ 12942 + r.n := high
  omega

/-- An accepted candidate has a length of 1 to MTU (R194). -/
theorem accepted_length (inv : RxInv g k r) (hst : r.st = .extract) (accepted : r.verdict = .accept) :
    1 ≤ r.lenA ∧ r.lenA ≤ 1600 := by
  refine ⟨Nat.one_le_iff_ne_zero.2 fun zero => ?_, inv.lens_le.1⟩
  rw [inv.verdict_eq (.inl hst), verdictOf, zero] at accepted
  split at accepted
  · cases accepted
  · cases accepted

end

theorem worker_ne_fault {i : Instr} {k : Nat} {st : RxSt} {s : State} (hi : workerStateOf i = some (k, st))
    (inv : StateInv s) (f : Fault) : exec i s ≠ .fault f := by
  intro h
  obtain ⟨body, step⟩ := worker_step hi s
  obtain ⟨r, hr, running, hst, -⟩ := workerStep_eq_fault.1 (step.symm.trans h)
  have en : RxEnabled s k r st := ⟨hr, running, hst⟩
  have shape := (inv_parts inv).2.2.1 k r hr
  have chan := inv.rx k r hr
  obtain ⟨lenBits, lenSd, small⟩ := window_room shape chan
  revert h
  cases i with
  | rxFill =>
    cases hi
    rw [show exec (.rxFill k) s = _ from en.body _]
    split
    · exact next_ne_fault _ f
    next c _ =>
    refine ite_ne_fault (fun _ => next_ne_fault _ f) fun _ => ite_ne_fault (fun _ => refused_ne_fault _ f) fun bad => ?_
    obtain ⟨-, fits, hbits, hsd, -⟩ := (RxWorker.chunkOk_iff s.cfg k c).1 (by simpa using bad)
    exact writeOr_ne_fault (show 12942 + c.cbits.length ≤ _ by omega) fun _ =>
      writeOr_ne_fault (show 12942 + c.csd.length ≤ _ by omega) fun _ => next_ne_fault _ f
  | rxSearch =>
    cases hi
    rw [show exec (.rxSearch k) s = _ from en.body _]
    have held := chunk_held chan (by simp [hst]) (by simp [hst])
    have lo : searchLo = 12895 := rfl
    exact readOr_ne_fault (by rw [lo, Nat.max_eq_left held]; omega) fun _ => next_ne_fault _ f
  | rxValidate =>
    cases hi
    rw [show exec (.rxValidate k) s = _ from en.body _]
    obtain ⟨low, high, -⟩ := candidate_room shape chan (.inl hst)
    refine ite_ne_fault (fun bad => absurd (show r.cand < 46 from bad) (by omega)) fun _ => ?_
    exact readOr_ne_fault (show r.cand - 46 + 46 ≤ _ by omega) fun _ => next_ne_fault _ f
  | rxExtract =>
    cases hi
    rw [show exec (.rxExtract k) s = _ from en.body _]
    obtain ⟨low, -, high⟩ := candidate_room shape chan (.inr (.inl hst))
    split
    next accepted =>
      obtain ⟨-, legal⟩ := accepted_length chan hst accepted
      refine ite_ne_fault (fun _ => next_ne_fault _ f) fun _ =>
        ite_ne_fault (fun bad => absurd (show r.cand < 46 + 8 * r.lenA from bad) (by omega)) fun _ => ?_
      exact readOr_ne_fault (FrameDecode.payload_inside (by omega) (by omega)) fun _ => next_ne_fault _ f
    next => exact next_ne_fault _ f
    next => exact next_ne_fault _ f
    next => exact next_ne_fault _ f
  | rxShift =>
    cases hi
    rw [show exec (.rxShift k) s = _ from en.body _]
    exact shiftOr_ne_fault (by rw [List.length_replicate]; omega) fun _ =>
      shiftOr_ne_fault (by rw [List.length_replicate]; omega) fun _ => next_ne_fault _ f
  | rxHalt =>
    cases hi
    rw [show exec (.rxHalt k) s = _ from en.body _]
    split
    · exact next_ne_fault _ f
    · exact ite_ne_fault (fun _ => next_ne_fault _ f) fun _ => next_ne_fault _ f
  | _ => cases hi

/-! The operations of the scheduler. -/

/-- In DRAIN the channel at `sch.ci` exists, and its queue holds a quantum (R62 e). -/
theorem drain_room {s : State} (inv : StateInv s) (draining : s.sch.ph = .drain) :
    ∃ u, s.tx[s.sch.ci]? = some u ∧ s.cfg.quantum s.sch.ci ≤ u.q.length := by
  obtain ⟨-, txCount, -, queues, -⟩ := inv_parts inv
  have inside : s.sch.ci < s.tx.length := txCount ▸ inv.sch.ci_drain draining
  have hu := List.getElem?_eq_getElem inside
  have room : s.cfg.wTx s.sch.ci = 12942 + s.cfg.quantum s.sch.ci := rfl
  exact ⟨_, hu, by rw [queues _ _ hu]; omega⟩

/-- The channel at `sch.ci` is skipped or due in DRAIN; nothing else can happen. -/
theorem drainTarget_ne_fault {s : State} (inv : StateInv s) (draining : s.sch.ph = .drain) {skip : Out}
    {go : TxChan → Out} {f : Fault} (hskip : skip ≠ .fault f) (hgo : ∀ u, DrainDue s u → go u ≠ .fault f) :
    drainTarget s skip go ≠ .fault f := by
  obtain ⟨u, hu, whole⟩ := drain_room inv draining
  obtain ⟨none, -⟩ | ⟨w, hw, ⟨ready, alive, target⟩ | ⟨-, target⟩⟩ := drainTarget_cases s skip go
  · cases hu.symm.trans none
  · cases hu.symm.trans hw
    rw [target]
    exact hgo u ⟨hu, ready, alive, whole⟩
  · rw [target]
    exact hskip

theorem sched_ne_fault {i : Instr} {ph : Phase} {s : State} (hi : phaseOf i = some ph) (inv : StateInv s) (f : Fault) :
    exec i s ≠ .fault f := by
  intro h
  obtain ⟨body, step⟩ := sched_step hi s
  obtain ⟨running, hph, -⟩ := schedStep_eq_fault.1 (step.symm.trans h)
  have en : SchEnabled s ph := ⟨running, hph⟩
  obtain ⟨-, txCount, -, queues, slot⟩ := inv_parts inv
  have slot : s.sch.pendData.length = 1600 := slot
  revert h
  cases i with
  | txWait =>
    cases hi
    rw [show exec .txWait s = _ from en.body _]
    exact ite_ne_fault (fun _ => next_ne_fault _ f) fun _ => next_ne_fault _ f
  | txDevrd =>
    cases hi
    rw [show exec .txDevrd s = _ from en.body _]
    refine ite_ne_fault (fun _ => next_ne_fault _ f) fun _ => ite_ne_fault (fun _ => next_ne_fault _ f) fun _ => ?_
    split
    · exact next_ne_fault _ f
    refine ite_ne_fault (fun _ => refused_ne_fault _ f) fun legal => ?_
    have legal := Nat.le_of_not_lt legal
    exact writeOr_ne_fault (by rw [slot, Nat.zero_add]; exact legal) fun _ => next_ne_fault _ f
  | txAssign =>
    cases hi
    rw [show exec .txAssign s = _ from en.body _]
    refine ite_ne_fault (fun _ => next_ne_fault _ f) fun _ => ?_
    split
    · exact next_ne_fault _ f
    next c found =>
    obtain ⟨u, hu, free, -⟩ := (TxScheduler.findIdx_free_iff _ _).1 found
    have inside : s.sch.pendLen ≤ s.sch.pendData.length := slot ▸ inv.sch.pend_le
    have fits := slotFrame_fits free inside inv.sch.pend_le
    have room : s.cfg.wTx c = 12942 + s.cfg.quantum c := rfl
    have len := queues c u hu
    rw [hu]
    dsimp only
    rw [FrameDecode.readOr_inside _ (by omega), List.drop_zero, ← slotFrame]
    exact writeOr_ne_fault (by omega) fun _ => next_ne_fault _ f
  | txDrain =>
    cases hi
    rw [show exec .txDrain s = _ from en.body _]
    refine drainTarget_ne_fault inv en.phase (next_ne_fault _ f) fun u due => ?_
    refine readOr_ne_fault (by have := due.whole; omega) fun _ => ?_
    have size : (filler (s.cfg.quantum s.sch.ci)).length = s.cfg.quantum s.sch.ci := fillerBits_length _
    split
    · exact next_ne_fault _ f
    · exact next_ne_fault _ f
    · exact shiftOr_ne_fault (size.trans_le due.whole) fun _ => next_ne_fault _ f
  | txFail =>
    cases hi
    rw [show exec .txFail s = _ from en.body _]
    refine drainTarget_ne_fault inv en.phase (next_ne_fault _ f) fun u due => ?_
    refine readOr_ne_fault (by have := due.whole; omega) fun _ => ?_
    split <;> exact next_ne_fault _ f
  | txAbort =>
    cases hi
    rw [show exec .txAbort s = _ from en.body _]
    exact ite_ne_fault (fun _ => next_ne_fault _ f) fun _ => next_ne_fault _ f
  | _ => cases hi

/-! The other operations, within their domains. -/

theorem pure_ne_fault {i : Instr} {s : State} (worker : workerStateOf i = none) (sched : phaseOf i = none)
    (wf : i.wf = true) (f : Fault) : exec i s ≠ .fault f := by
  cases i with
  | rxFill | rxSearch | rxValidate | rxExtract | rxShift | rxHalt => cases worker
  | txWait | txDevrd | txAssign | txDrain | txFail | txAbort => cases sched
  | sysReset => exact ite_ne_fault (fun _ => next_ne_fault _ f) fun _ => next_ne_fault _ f
  | sysCfgchk =>
    refine ite_ne_fault (fun _ => ?_) fun _ => next_ne_fault _ f
    split <;> exact next_ne_fault _ f
  | lenVote | uwHard => exact refused_ne_fault _ f
  | frmDec bits sd o =>
    simp only [Instr.wf, Bool.and_eq_true, decide_eq_true_eq] at wf
    obtain ⟨⟨⟨⟨⟨same, low⟩, high⟩, -⟩, -⟩, -⟩ := wf
    obtain ⟨v, answer⟩ := (FrameDecode.frmDecClassifiesCandidate s bits sd o same).1 low high
    rw [answer]
    exact next_ne_fault _ f
  | lenEnc | lenDec | deser | frmEnc | wireFooter | wordLength =>
    exact ite_ne_fault (fun _ => next_ne_fault _ f) fun _ => refused_ne_fault _ f
  | uwCorr sd o =>
    simp only [Instr.wf, Bool.and_eq_true, decide_eq_true_eq] at wf
    exact ite_ne_fault (fun _ => next_ne_fault _ f) fun outside => absurd wf.1.1.1 outside
  | uwSearch sd lo hi =>
    simp only [Instr.wf, Bool.and_eq_true, decide_eq_true_eq] at wf
    obtain ⟨⟨⟨⟨⟨-, inside⟩, -⟩, -⟩, -⟩, -⟩ := wf
    exact ite_ne_fault (fun _ => refused_ne_fault _ f) fun _ =>
      ite_ne_fault (fun _ => next_ne_fault _ f) fun outside => absurd inside outside
  | golayEnc | lenIlv | scr | ser | filler | wireUw | wirePayloadByte | wireFiller | wireFrameL1 | wireFrameNoleadL1
  | wordCodeword => exact next_ne_fault _ f

theorem exec_ne_fault {i : Instr} {s : State} (dom : InDomain i) (inv : StateInv s) (f : Fault) : exec i s ≠ .fault f := by
  rcases hw : workerStateOf i with _ | ⟨k, st⟩
  · rcases hp : phaseOf i with _ | ph
    · exact pure_ne_fault hw hp (dom hw hp) f
    · exact sched_ne_fault hp inv f
  · exact worker_ne_fault hw inv f

/-- Settles O59: what a step runs is within its domain, and an agent's positions are within its buffers. -/
theorem stepNeverFaults : Obligations.StepNeverFaults := by
  intro s f inv
  cases stepIs s with
  | quiet run => rw [run]; exact next_ne_fault s f
  | refused e run => rw [run]; exact refused_ne_fault _ f
  | env e script turn run => rw [run]; exact applyEnv_ne_fault e _ f
  | op i script turn dom run => rw [run]; exact exec_ne_fault dom (withMoves_inv inv script turn) f

/-! What crosses the ports (R258, R259). -/

/-- A transfer of the sizes of its port's contract. -/
def EventOk (g : Cfg) : PortEvent → Prop
  | .devwr p => 1 ≤ p.length ∧ p.length ≤ 1600
  | .txout c b _ => b.length = g.quantum c
  | _ => True

/-- The log grows by transfers of the sizes of their contracts. -/
def LogsOk (g : Cfg) (s t : State) : Prop := ∃ new, t.log = s.log ++ new ∧ ∀ e ∈ new, EventOk g e

theorem logsOk_of_same (g : Cfg) {s t : State} (same : t.log = s.log) : LogsOk g s t :=
  ⟨[], by rw [same, List.append_nil], by rintro _ ⟨⟩⟩

theorem logsOk_of_one {g : Cfg} {s t : State} {e : PortEvent} (grows : t.log = s.log ++ [e]) (ok : EventOk g e) :
    LogsOk g s t :=
  ⟨[e], grows, fun e' h => by rwa [List.mem_singleton.1 h]⟩

theorem logsOk_of_two {g : Cfg} {s t : State} {e e' : PortEvent} (grows : t.log = s.log ++ [e] ++ [e']) (ok : EventOk g e)
    (ok' : EventOk g e') : LogsOk g s t :=
  ⟨[e, e'], grows.trans (List.append_assoc ..), fun x h => by
    obtain rfl | h := List.mem_cons.1 h
    · exact ok
    · rwa [List.mem_singleton.1 h]⟩

theorem rxEffect_logsOk {k : Nat} {s t : State} {r : RxChan} {i : Instr} {st : RxSt} (inv : StateInv s)
    (hi : workerStateOf i = some (k, st)) (en : RxEnabled s k r st) (h : RxEffect k s r i t) : LogsOk s.cfg s t := by
  cases h with
  | fill => exact logsOk_of_one rfl trivial
  | search | validate | drop | shift => exact logsOk_of_same _ rfl
  | deliver raw accepted ready low read =>
    cases hi
    have size : (unpack raw).length = r.lenA := (FrameDecode.unpack_isPayload read).1
    have legal : EventOk s.cfg (.devwr (unpack raw)) := by
      rw [EventOk, size]
      exact accepted_length (inv.rx k r en.chan) en.state accepted
    exact logsOk_of_two rfl legal trivial
  | reject => exact logsOk_of_one rfl trivial
  | halt => exact logsOk_of_two rfl trivial trivial

theorem frontQuantum_length {s : State} {u : TxChan} (due : DrainDue s u) :
    (frontQuantum s u).length = s.cfg.quantum s.sch.ci := by
  rw [frontQuantum, List.length_take, Nat.min_eq_left due.whole]

theorem schEffect_logsOk {s t : State} {i : Instr} (h : SchEffect s i t) : LogsOk s.cfg s t := by
  cases h with
  | wait | noEvent | idle | skip => exact logsOk_of_same _ rfl
  | abort | take | busy | queue => exact logsOk_of_one rfl trivial
  | drain u q due => exact logsOk_of_one rfl (frontQuantum_length due)
  | fail _ u op due => exact logsOk_of_two rfl (frontQuantum_length due) trivial

theorem sysEffect_logsOk {s t : State} {i : Instr} (g : Cfg) (h : SysEffect s i t) : LogsOk g s t := by
  cases h with
  | reset => exact logsOk_of_same g rfl
  | cfgFail => exact logsOk_of_one rfl trivial
  | cfgPass =>
    refine ⟨_, openFirst_log s.cfg.nrx { s with chkPending := false }, fun e h => ?_⟩
    obtain ⟨k, -, rfl⟩ := List.mem_map.1 h
    trivial

theorem exec_logsOk {i : Instr} {s t : State} (inv : StateInv s) (h : exec i s = .next t) : LogsOk s.cfg s t := by
  cases exec_inv h with
  | none => exact logsOk_of_same _ rfl
  | latch => exact logsOk_of_same _ rfl
  | worker k st r t hi en effect => exact rxEffect_logsOk inv hi en effect
  | sched ph t hi en effect => exact schEffect_logsOk effect
  | system t effect => exact sysEffect_logsOk s.cfg effect

theorem step_logsOk {s t : State} (inv : StateInv s) (h : step s = .next t) : LogsOk s.cfg s t := by
  cases stepIs s with
  | quiet run => cases run.symm.trans h; exact logsOk_of_same _ rfl
  | refused e run => cases run.symm.trans h
  | env e script turn run =>
    obtain ⟨e', rfl⟩ := applyEnv_inv (run.symm.trans h)
    exact logsOk_of_same _ rfl
  | op i script turn _ run =>
    have logs := exec_logsOk (withMoves_inv inv script turn) (run.symm.trans h)
    exact logs

/-- Settles O60: a delivered packet has the accepted length, and a quantum is read whole from the front of its queue. -/
theorem transfersHaveContractSizes : Obligations.TransfersHaveContractSizes := by
  intro s t inv h
  obtain ⟨new, grows, ok⟩ := step_logsOk inv h
  exact ⟨new, grows, fun p hp => ok _ hp, fun c b a hb => ok _ hb⟩

/-! Where the arbiter names nothing. -/

/-- A round of the agents in which none has an operation looked at every one of them. -/
theorem agentOp_of_pickFrom_none {s : State} {fuel a j : Nat} (h : pickFrom s fuel a = none) (hj : j < fuel) :
    agentOp s ((a + j) % (s.cfg.nrx + 1)) = none := by
  induction fuel generalizing a j with
  | zero => exact absurd hj (Nat.not_lt_zero j)
  | succ n ih =>
    rw [pickFrom] at h
    split at h
    · cases h
    next none =>
    cases j with
    | zero => exact none
    | succ j =>
      rw [show a + (j + 1) = a + 1 + j by omega]
      exact ih h (by omega)

theorem exists_add_mod (a : Nat) {b m : Nat} (hb : b < m) : ∃ j, j < m ∧ (a + j) % m = b := by
  refine ⟨(b + m - a % m) % m, Nat.mod_lt _ (by omega), ?_⟩
  have small := Nat.mod_lt a (show 0 < m by omega)
  have whole := Nat.div_add_mod a m
  rw [Nat.add_mod_mod, show a + (b + m - a % m) = b + m * (a / m + 1) by rw [Nat.mul_add]; omega, Nat.add_mul_mod_self_left,
    Nat.mod_eq_of_lt hb]

theorem agents_quiet {s : State} (h : pickFrom s (s.cfg.nrx + 1) s.turn = none) :
    (∀ k, k < s.cfg.nrx → workerOp s k = none) ∧ schedOp s = none := by
  have all (a : Nat) (ha : a < s.cfg.nrx + 1) : agentOp s a = none := by
    obtain ⟨j, hj, place⟩ := exists_add_mod s.turn ha
    exact place ▸ agentOp_of_pickFrom_none h hj
  refine ⟨fun k hk => ?_, ?_⟩
  · have quiet := all k (by omega)
    rwa [agentOp, if_pos hk] at quiet
  · have quiet := all s.cfg.nrx (by omega)
    rwa [agentOp, if_neg (Nat.lt_irrefl _)] at quiet

/-- The three ways a worker has no operation. -/
theorem workerOp_none {s : State} {k : Nat} {r : RxChan} (hr : s.rx[k]? = some r) (quiet : workerOp s k = none) :
    (r.st = .fill ∧ s.rxOffered k = none) ∨ (r.st = .extract ∧ r.verdict = .accept ∧ s.env.devwrReady = false) ∨
      r.st = .halt := by
  simp only [workerOp, hr] at quiet
  split at quiet
  next hst =>
    split at quiet
    · next none => exact .inl ⟨hst, none⟩
    · split at quiet <;> cases quiet
  next => cases quiet
  next => cases quiet
  next hst =>
    split at quiet
    · next wait =>
      obtain ⟨accepted, busy⟩ := Bool.and_eq_true_iff.1 wait
      exact .inr (.inl ⟨hst, beq_iff_eq.1 accepted, by simpa using busy⟩)
    · cases quiet
  next => cases quiet
  next hst => exact .inr (.inr hst)

theorem worker_waits {s : State} {i : Instr} {k : Nat} {st : RxSt} {r : RxChan} (hi : workerStateOf i = some (k, st))
    (hr : s.rx[k]? = some r) (quiet : workerOp s k = none) : exec i s = .next s := by
  by_cases off : s.running = false ∨ r.st ≠ st
  · exact worker_disabled hi hr off
  obtain ⟨live, hst⟩ := not_or.1 off
  have en : RxEnabled s k r st := ⟨hr, by simpa using live, not_not.1 hst⟩
  have state := en.state
  obtain ⟨fill, none⟩ | ⟨extract, accepted, busy⟩ | halt := workerOp_none hr quiet
  · cases i with
    | rxFill | rxHalt => cases hi; exact (en.body _).trans (by rw [none])
    | rxSearch | rxValidate | rxExtract | rxShift => cases hi; rw [fill] at state; cases state
    | _ => cases hi
  · cases i with
    | rxExtract => cases hi; exact (en.body _).trans (by simp only [accepted, busy, Bool.not_false, if_true])
    | rxFill | rxHalt | rxSearch | rxValidate | rxShift => cases hi; rw [extract] at state; cases state
    | _ => cases hi
  · exact absurd (state.symm.trans halt) (workerStateOf_ne_halt hi)

/-- The three ways the scheduler has no operation. -/
theorem schedOp_none {s : State} (quiet : schedOp s = none) : (s.sch.ph = .wait ∧ s.eventPresent = false) ∨
    (s.sch.ph = .devrd ∧ s.sch.evDev = true ∧ s.sch.pendValid = false ∧ s.env.devPkts = []) ∨
      (s.sch.ph = .drain ∧ s.answer s.sch.ci = .notTaken ∧ s.sch.evWr.getD s.sch.ci false = true ∧
        ∃ u, s.tx[s.sch.ci]? = some u ∧ u.alive = true) := by
  rw [schedOp] at quiet
  split at quiet
  next hph =>
    split at quiet
    · cases quiet
    · next none => exact .inl ⟨hph, by simpa using none⟩
  next hph =>
    split at quiet
    · cases quiet
    next ev =>
    split at quiet
    · cases quiet
    next empty =>
    split at quiet
    · cases quiet
    next gone => exact .inr (.inl ⟨hph, by simpa using ev, by simpa using empty, by simpa [Env.devAvail] using gone⟩)
  next => cases quiet
  next hph =>
    split at quiet
    · next due =>
      obtain ⟨ready, alive⟩ := Bool.and_eq_true_iff.1 due
      split at quiet
      · cases quiet
      · cases quiet
      next answer =>
      refine .inr (.inr ⟨hph, answer, ready, ?_⟩)
      cases hu : s.tx[s.sch.ci]? with
      | none => rw [hu] at alive; cases alive
      | some u => rw [hu] at alive; exact ⟨u, rfl, alive⟩
    · cases quiet

theorem sched_waits {s : State} {i : Instr} {ph : Phase} (inv : StateInv s) (hi : phaseOf i = some ph)
    (quiet : schedOp s = none) : exec i s = .next s := by
  by_cases off : s.running = false ∨ s.sch.ph ≠ ph
  · exact sched_disabled hi off
  obtain ⟨live, hph⟩ := not_or.1 off
  have en : SchEnabled s ph := ⟨by simpa using live, not_not.1 hph⟩
  have phase := en.phase
  obtain ⟨wait, none⟩ | ⟨devrd, ev, empty, gone⟩ | ⟨drain, answer, ready, u, hu, alive⟩ := schedOp_none quiet
  · cases i with
    | txWait => cases hi; exact (en.body _).trans (if_neg (by simp [none]))
    | txDevrd | txAssign | txDrain | txFail | txAbort => cases hi; rw [wait] at phase; cases phase
    | _ => cases hi
  · cases i with
    | txDevrd => cases hi; exact (en.body _).trans (by simp [ev, empty, gone])
    | txAbort => cases hi; exact (en.body _).trans (by simp [empty])
    | txWait | txAssign | txDrain | txFail => cases hi; rw [devrd] at phase; cases phase
    | _ => cases hi
  · obtain ⟨w, hw, whole⟩ := drain_room inv drain
    cases hw.symm.trans hu
    have due : DrainDue s u := ⟨hu, ready, alive, whole⟩
    cases i with
    | txDrain | txFail =>
      cases hi
      refine (en.body _).trans ((due.target _ _).trans ((due.read _).trans ?_))
      simp only [answer]
    | txWait | txDevrd | txAssign | txAbort => cases hi; rw [drain] at phase; cases phase
    | _ => cases hi

/-- What it means that the arbiter names nothing. -/
theorem arbiter_none {s : State} (quiet : arbiter s = none) : s.env.rst = false ∧ s.chkPending = false ∧
    (s.fatal = true ∨ pickFrom s (s.cfg.nrx + 1) s.turn = none) := by
  rw [arbiter] at quiet
  split at quiet
  · cases quiet
  next rst =>
  split at quiet
  · cases quiet
  next check =>
  refine ⟨by simpa using rst, by simpa using check, ?_⟩
  split at quiet
  · next fatal => exact .inl fatal
  · exact .inr quiet

/-- Settles O53: the arbiter looks at the same register each operation tests. -/
theorem quietMachineWaits : Obligations.QuietMachineWaits := by
  intro s i inv quiet agent
  obtain ⟨rst, check, agents⟩ := arbiter_none quiet
  obtain ⟨k, st, hi, hk⟩ | ⟨ph, hi⟩ | rfl | rfl := agent
  · have hr := List.getElem?_eq_getElem (show k < s.rx.length from (inv_parts inv).1 ▸ hk)
    obtain fatal | round := agents
    · exact worker_disabled hi hr (.inl (not_running (.inl fatal)))
    · exact worker_waits hi hr ((agents_quiet round).1 k hk)
  · obtain fatal | round := agents
    · exact sched_disabled hi (.inl (not_running (.inl fatal)))
    · exact sched_waits inv hi (agents_quiet round).2
  · exact sysReset_released rst
  · exact sysCfgchk_not_due (.inl check)

end Sys2Proof.Proofs.Safety
